-- ==== Sys2Proof/Word.lean ====
section
/-! DEFINITION. The words of the FNV hash engine and the closed enumeration of its lanes (00_scope.md R2, R4, R9, R15).
Every vector is numbered from bit 0, its least significant bit, and stands for an unsigned integer (R15). -/

namespace Sys2Proof

/-- The data octet a WRITE carries, `BYTE_W` = 8 (R9, R69). -/
abbrev Byte := BitVec 8

/-- The command word on `cmd`, `CMD_W` = 16 (R9, R60). -/
abbrev CmdWord := BitVec 16

/-- The lane mask `m[5:0]` of WRITE and RESET, one bit per lane (R68). -/
abbrev LaneMask := BitVec 6

/-- The lane index `i[2:0]` of FINISH, `LANE_IDX_W` = 3 (R9, R67). -/
abbrev LaneIndex := BitVec 3

/-- The response bus `rsp_data`, `RSP_W` = 128 (R9, R11). -/
abbrev RspData := BitVec 128

/-- The digest widths, and no other (R4). -/
inductive Width where
  | w32
  | w64
  | w128
deriving DecidableEq, Repr

/-- The width in bits. -/
abbrev Width.bits : Width → Nat
  | .w32 => 32
  | .w64 => 64
  | .w128 => 128

/-- The variants, and no other (R4). -/
inductive Variant where
  | fnv1
  | fnv1a
deriving DecidableEq, Repr

/-- The six lanes in the order of their index (R2). -/
inductive Lane where
  | fnv1_32
  | fnv1a_32
  | fnv1_64
  | fnv1a_64
  | fnv1_128
  | fnv1a_128
deriving DecidableEq, Repr

/-- The width column of the lane table (R2). -/
abbrev Lane.width : Lane → Width
  | .fnv1_32 => .w32
  | .fnv1a_32 => .w32
  | .fnv1_64 => .w64
  | .fnv1a_64 => .w64
  | .fnv1_128 => .w128
  | .fnv1a_128 => .w128

/-- `W(i)` of the lane table (R2). -/
abbrev Lane.bits (l : Lane) : Nat := l.width.bits

end Sys2Proof
end

