-- ==== Sys2Proof/Syntax.lean ====
section
/-! DEFINITION. The commands of the engine: one constructor per row of spec/opcode_table.json (30_encoding.md R62 to R66,
43_reset_nop.md R144). -/

namespace Sys2Proof

/-- A command. FINISH has one constructor per lane, as the opcode table has one row per lane (R66). -/
inductive Instr where
  /-- NOP, the single word 0x0000 (R63, R142). -/
  | nop
  /-- WRITE(m, b): the byte `b` to every lane selected by `m` (R64, R100). -/
  | write (m : LaneMask) (b : Byte)
  /-- RESET(m): every lane selected by `m` back to its offset basis (R65, R140). -/
  | reset (m : LaneMask)
  /-- FINISH of lane 0 (R66, R121). -/
  | finishFnv1_32
  /-- FINISH of lane 1 (R66, R122). -/
  | finishFnv1a_32
  /-- FINISH of lane 2 (R66, R123). -/
  | finishFnv1_64
  /-- FINISH of lane 3 (R66, R124). -/
  | finishFnv1a_64
  /-- FINISH of lane 4 (R66, R125). -/
  | finishFnv1_128
  /-- FINISH of lane 5 (R66, R126). -/
  | finishFnv1a_128
deriving DecidableEq, Repr

end Sys2Proof
end

