-- ==== Sys2Proof/WellFormed.lean ====
section
/-! DEFINITION. What is well formed. The types of `Instr` carry the bounds of its operands and all 64 masks and 256 bytes are
legal (30_encoding.md R68, R69), so every value of `Instr` is well formed; what can be ill formed is a COMMAND WORD, and a word
is legal exactly when it matches a row of spec/opcode_table.json (R70). This file states that table, apart from the decoder. -/

namespace Sys2Proof

/-- A row of spec/opcode_table.json: a word matches it when its bits under `mask` are those of `pattern`. -/
structure TableRow where
  pattern : CmdWord
  mask : CmdWord
deriving DecidableEq, Repr

/-- The word has the row's fixed bits. -/
def TableRow.accepts (r : TableRow) (w : CmdWord) : Bool := w &&& r.mask == r.pattern

/-- The row of an instruction: the "match" and "mask" columns of spec/opcode_table.json (R63 to R66). -/
def Instr.row : Instr → TableRow
  | .nop => { pattern := 0x0000#16, mask := 0xffff#16 }
  | .write _ _ => { pattern := 0x4000#16, mask := 0xc000#16 }
  | .reset _ => { pattern := 0x8000#16, mask := 0xc0ff#16 }
  | .finishFnv1_32 => { pattern := 0xc000#16, mask := 0xffff#16 }
  | .finishFnv1a_32 => { pattern := 0xc100#16, mask := 0xffff#16 }
  | .finishFnv1_64 => { pattern := 0xc200#16, mask := 0xffff#16 }
  | .finishFnv1a_64 => { pattern := 0xc300#16, mask := 0xffff#16 }
  | .finishFnv1_128 => { pattern := 0xc400#16, mask := 0xffff#16 }
  | .finishFnv1a_128 => { pattern := 0xc500#16, mask := 0xffff#16 }

/-- The nine rows of spec/opcode_table.json, in its order. -/
def opcodeTable : List TableRow :=
  [Instr.row .nop, Instr.row (.write 0 0), Instr.row (.reset 0), Instr.row .finishFnv1_32, Instr.row .finishFnv1a_32,
    Instr.row .finishFnv1_64, Instr.row .finishFnv1a_64, Instr.row .finishFnv1_128, Instr.row .finishFnv1a_128]

/-- A command word is legal exactly when it matches some row of the table (R70). -/
def CmdWord.wellFormed (w : CmdWord) : Bool := opcodeTable.any (fun r => r.accepts w)

/-- An instruction is well formed when its operands are in range: a mask of six bits and a byte of eight (R64, R65), which
their types already say. -/
def Instr.wellFormed : Instr → Bool
  | .write m b => decide (m.toNat < 64) && decide (b.toNat < 256)
  | .reset m => decide (m.toNat < 64)
  | .nop | .finishFnv1_32 | .finishFnv1a_32 | .finishFnv1_64 | .finishFnv1a_64 | .finishFnv1_128 | .finishFnv1a_128 => true

end Sys2Proof
end

