-- ==== Sys2Proof/Decode.lean ====
section
/-! DEFINITION. The decoder, total on all 2^16 command words and rejecting by name (30_encoding.md R72, R70), and the encoder
written from the four formats (R63 to R66). There is one length, 16 bits, and no byte order: the word stands on the port
`cmd` (R60, R41). -/

namespace Sys2Proof

/-- The five cases of a reserved word (R70, R151). -/
inductive IllegalCase where
  /-- X1: `OP = 00` and some other bit set. -/
  | malformedNop
  /-- X2: `OP = 10` and `DATA ≠ 0`. -/
  | malformedReset
  /-- X3: `OP = 11` and `cmd[13:11] ≠ 000`. -/
  | malformedFinish
  /-- X4: `OP = 11`, `cmd[13:11] = 000` and lane index 6 or 7: LZFNV's "unsupported combination". -/
  | noSuchLane
  /-- X5: `OP = 11`, `cmd[13:11] = 000`, lane index at most 5 and `DATA ≠ 0`. -/
  | finishWithData
deriving DecidableEq, Repr

/-- What `decode` answers (R72): a command, or ILLEGAL with the case that holds. -/
inductive Decoded where
  | command (i : Instr)
  | illegal (c : IllegalCase)
deriving DecidableEq, Repr

/-- The field `OP`, `cmd[15:14]` (R61). -/
def CmdWord.op (w : CmdWord) : BitVec 2 := w.extractLsb' 14 2

/-- The field `SEL`, `cmd[13:8]` (R61). -/
def CmdWord.sel (w : CmdWord) : LaneMask := w.extractLsb' 8 6

/-- The field `DATA`, `cmd[7:0]` (R61). -/
def CmdWord.data (w : CmdWord) : Byte := w.extractLsb' 0 8

/-- The must-be-zero bits of the F-format, `cmd[13:11]` (R66). -/
def CmdWord.finishZeros (w : CmdWord) : BitVec 3 := w.extractLsb' 11 3

/-- The lane index of the F-format, `cmd[10:8]` (R66). -/
def CmdWord.laneIndex (w : CmdWord) : LaneIndex := w.extractLsb' 8 3

/-- The FINISH of a lane index; indexes 6 and 7 name no lane (R67). -/
def finishOfIndex (i : LaneIndex) : Option Instr :=
  match i.toNat with
  | 0 => some .finishFnv1_32
  | 1 => some .finishFnv1a_32
  | 2 => some .finishFnv1_64
  | 3 => some .finishFnv1a_64
  | 4 => some .finishFnv1_128
  | 5 => some .finishFnv1a_128
  | _ => none

/-- Words with `OP = 11` (R66, R70 cases X3, X4, X5). -/
def decodeFinish (w : CmdWord) : Decoded :=
  if w.finishZeros ≠ 0#3 then .illegal .malformedFinish
  else
    match finishOfIndex w.laneIndex with
    | none => .illegal .noSuchLane
    | some i => if w.data = 0#8 then .command i else .illegal .finishWithData

/-- `decode` (R72). It reads nothing but the word. -/
def decode (w : CmdWord) : Decoded :=
  if w.op = 0b00#2 then
    if w.sel = 0#6 ∧ w.data = 0#8 then .command .nop else .illegal .malformedNop
  else if w.op = 0b01#2 then .command (.write w.sel w.data)
  else if w.op = 0b10#2 then
    if w.data = 0#8 then .command (.reset w.sel) else .illegal .malformedReset
  else decodeFinish w

/-- The command of a decoded word, if it is one. -/
def Decoded.toInstr : Decoded → Option Instr
  | .command i => some i
  | .illegal _ => none

/-- The word with fields `OP`, `SEL`, `DATA` (R61). -/
def CmdWord.ofFields (op : BitVec 2) (sel : LaneMask) (data : Byte) : CmdWord := op ++ sel ++ data

/-- The word of an instruction, from the formats N, W, R, F (R63 to R66). -/
def encode : Instr → CmdWord
  | .nop => CmdWord.ofFields 0b00#2 0#6 0#8
  | .write m b => CmdWord.ofFields 0b01#2 m b
  | .reset m => CmdWord.ofFields 0b10#2 m 0#8
  | .finishFnv1_32 => CmdWord.ofFields 0b11#2 0b000000#6 0#8
  | .finishFnv1a_32 => CmdWord.ofFields 0b11#2 0b000001#6 0#8
  | .finishFnv1_64 => CmdWord.ofFields 0b11#2 0b000010#6 0#8
  | .finishFnv1a_64 => CmdWord.ofFields 0b11#2 0b000011#6 0#8
  | .finishFnv1_128 => CmdWord.ofFields 0b11#2 0b000100#6 0#8
  | .finishFnv1a_128 => CmdWord.ofFields 0b11#2 0b000101#6 0#8

/-- The word on `cmd` for a table row's `nbits` low bits of `w`, every bit above them 0. -/
def CmdWord.ofTable (nbits w : Nat) : CmdWord := BitVec.ofNat 16 (w % 2 ^ nbits)

/-- The instruction the decoder reads from the opcode table's bits: a command is one 16-bit word (R60), so a longer word is
none. -/
def decodeTableWord (nbits w : Nat) : Option Instr :=
  if nbits ≤ 16 then (decode (CmdWord.ofTable nbits w)).toInstr else none

end Sys2Proof
end

