-- ==== Sys2Proof/Config.lean ====
section
/-! DEFINITION. What is fixed for the engine: the per-width constants (00_scope.md R5 to R8) and the one open parameter
`P_POWERON` (10_state.md R35). The constants are no state: no command reads or writes them (R8). The decimal literals are
the normative ones (R7); the tests check them equal to the hexadecimal forms. -/

namespace Sys2Proof.Config

/-- `OFFSET_BASIS_W`, indexed by width only (R5 to R8). -/
def offsetBasis : (w : Width) → BitVec w.bits
  | .w32 => (2166136261 : BitVec 32)
  | .w64 => (14695981039346656037 : BitVec 64)
  | .w128 => (144066263297769815596495629667062367629 : BitVec 128)

/-- `PRIME_W`, indexed by width only (R5 to R8). -/
def prime : (w : Width) → BitVec w.bits
  | .w32 => (16777619 : BitVec 32)
  | .w64 => (1099511628211 : BitVec 64)
  | .w128 => (309485009821345068724781371 : BitVec 128)

/-! `P_POWERON`: the contents of the six registers before the first reset, which no source gives (R35). They are opaque, so
nothing can be proved of their values; only `State.powerOn` uses them, never `State.reset`. Assumption log 4. -/

/-- `P_POWERON` for `D[0]`. UNVERIFIED: no value is known or assumed. -/
opaque powerOnD0 : BitVec 32

/-- `P_POWERON` for `D[1]`. UNVERIFIED: no value is known or assumed. -/
opaque powerOnD1 : BitVec 32

/-- `P_POWERON` for `D[2]`. UNVERIFIED: no value is known or assumed. -/
opaque powerOnD2 : BitVec 64

/-- `P_POWERON` for `D[3]`. UNVERIFIED: no value is known or assumed. -/
opaque powerOnD3 : BitVec 64

/-- `P_POWERON` for `D[4]`. UNVERIFIED: no value is known or assumed. -/
opaque powerOnD4 : BitVec 128

/-- `P_POWERON` for `D[5]`. UNVERIFIED: no value is known or assumed. -/
opaque powerOnD5 : BitVec 128

end Sys2Proof.Config
end

