-- ==== Sys2Proof/Machine/State.lean ====
section
/-! DEFINITION. The state: the six digest registers, which are all the state the block has (10_state.md R20), and beside them
the model's own record of what passes at the ports (00_scope.md R11, R13), since the host's step takes no argument. -/

namespace Sys2Proof.Machine

/-- The digest register file `D[0]` to `D[5]` (R20 to R26): the whole architectural state, 448 bits. -/
structure DigestFile where
  /-- `D[0]`, lane `fnv1_32` (R21). -/
  d0 : BitVec 32
  /-- `D[1]`, lane `fnv1a_32` (R22). -/
  d1 : BitVec 32
  /-- `D[2]`, lane `fnv1_64` (R23). -/
  d2 : BitVec 64
  /-- `D[3]`, lane `fnv1a_64` (R24). -/
  d3 : BitVec 64
  /-- `D[4]`, lane `fnv1_128` (R25). -/
  d4 : BitVec 128
  /-- `D[5]`, lane `fnv1a_128` (R26). -/
  d5 : BitVec 128
deriving DecidableEq, Repr

/-- One input tuple, what the host drives in one step (R10, R11). `clk` is the step itself. -/
structure PortIn where
  rst : Bool
  cmdValid : Bool
  cmd : CmdWord
deriving DecidableEq, Repr

/-- One output tuple, what the engine drives in one step (R10, R11). -/
structure PortOut where
  rspValid : Bool
  rspData : RspData
  cmdErr : Bool
deriving DecidableEq, Repr

/-- The faults of the engine (R151). The spec asks a model to record one and to give the next state all the same (R152), so
these stand in `State.faults` and no step ends in `Host.Outcome.fault`. -/
inductive Fault where
  /-- IllegalCommand, recorded by `raiseIllegalCommand` for the reserved word on `cmd` (R151, R152). Safe: a run with one
  recorded is not a clean run, and the next state is the one the spec gives. -/
  | illegalCommand (cmd : CmdWord)
deriving DecidableEq, Repr

/-- The refusals of the model. -/
inductive Refusal where
  /-- An instruction whose meaning is not written: raised by an arm of `exec`. No arm raises it: all nine are modelled. Safe:
  the machine would stop. -/
  | notModelled (mnemonic : String)
deriving DecidableEq, Repr

/-- The state. `regs` is the block's (R20); `inputs`, `observed` and `faults` are the model's own and hold what the host is
about to present, what the block has driven, and what the safety definition records (assumption log 1, 2, 3). -/
structure State where
  /-- The digest register file (R20). -/
  regs : DigestFile
  /-- The input tuples the host will present, the next one first (R13). DESIGN CHOICE, log 1. -/
  inputs : List PortIn
  /-- The output tuples of the steps performed, oldest first: the observation of the run (R13). DESIGN CHOICE, log 2. -/
  observed : List PortOut
  /-- The IllegalCommand faults recorded, oldest first (R152). DESIGN CHOICE, log 3. -/
  faults : List Fault
deriving DecidableEq, Repr

/-- The reset state of the registers: every lane constructed at the offset basis of its width (R170, R173). -/
def DigestFile.reset : DigestFile where
  d0 := Config.offsetBasis .w32
  d1 := Config.offsetBasis .w32
  d2 := Config.offsetBasis .w64
  d3 := Config.offsetBasis .w64
  d4 := Config.offsetBasis .w128
  d5 := Config.offsetBasis .w128

/-- The machine right after a step with `rst = 1` (R170, R173), with nothing presented, observed or recorded. -/
def State.reset : State where
  regs := DigestFile.reset
  inputs := []
  observed := []
  faults := []

/-- The machine before its first reset, holding `P_POWERON` (R35), with `ps` the tuples the host will present. Runs of
`Sys2Proof.core` start at `State.reset` (R35, alternative (a)); this state is for claims about the boot duty (R174). -/
def State.powerOn (ps : List PortIn) : State where
  regs := {
    d0 := Config.powerOnD0
    d1 := Config.powerOnD1
    d2 := Config.powerOnD2
    d3 := Config.powerOnD3
    d4 := Config.powerOnD4
    d5 := Config.powerOnD5 }
  inputs := ps
  observed := []
  faults := []

end Sys2Proof.Machine
end

