-- ==== Sys2Proof/Machine/Operands.lean ====
section
/-! DEFINITION. The operand forms: the lane table (00_scope.md R2), the lane index (30_encoding.md R67), the lane mask (R68) and
the data byte (R69). -/

namespace Sys2Proof.Machine

/-- The lanes in the order of their index (R2). -/
def lanes : List Lane :=
  [.fnv1_32, .fnv1a_32, .fnv1_64, .fnv1a_64, .fnv1_128, .fnv1a_128]

/-- The lane index `i` of the lane table (R2). -/
def laneNumber : Lane → Nat
  | .fnv1_32 => 0
  | .fnv1a_32 => 1
  | .fnv1_64 => 2
  | .fnv1a_64 => 3
  | .fnv1_128 => 4
  | .fnv1a_128 => 5

/-- `VAR(i)` of the lane table (R2). -/
def laneVariant : Lane → Variant
  | .fnv1_32 => .fnv1
  | .fnv1a_32 => .fnv1a
  | .fnv1_64 => .fnv1
  | .fnv1a_64 => .fnv1a
  | .fnv1_128 => .fnv1
  | .fnv1a_128 => .fnv1a

/-- The lane a number names; 6 and above name none (R46, R67). -/
def laneOfNumber (n : Nat) : Option Lane := lanes[n]?

/-- `m[i] = 1`: the mask selects the lane (R68). -/
def selects (m : LaneMask) (l : Lane) : Bool := m.getLsbD (laneNumber l)

/-- The mask `1 << i` that selects one lane (R74, R114). -/
def maskOfLane (l : Lane) : LaneMask := 1#6 <<< laneNumber l

/-- The OR of `1 << i` over the listed lanes (R74). -/
def maskOfLanes (ls : List Lane) : LaneMask := ls.foldr (fun l m => maskOfLane l ||| m) 0#6

/-- The mask of all lanes, `0x3f` (R68). -/
def allLanes : LaneMask := 0x3f#6

/-- `zext_W(b)`: the data byte at the width of a register, never sign-extended (R69). -/
def byteAt (n : Nat) (b : Byte) : BitVec n := b.setWidth n

/-- `zext_128(v)`: a digest on the response bus (R42). -/
def onResponseBus {n : Nat} (v : BitVec n) : RspData := v.setWidth 128

end Sys2Proof.Machine
end

