-- ==== Sys2Proof/Machine/Datapath.lean ====
section
/-! DEFINITION. The shared datapath (40_datapath.md): `multiplier`, `xor_reduce`, the two update orders, and the hash of a
sequence. Each function is one definition with the width as parameter (R90); all are total and set no flag (R80, R81, R86). -/

namespace Sys2Proof.Machine

/-- `multiplier`, `mul_W(x)`: the exact product with `PRIME_W`, cut to its low W bits (R80). -/
def mulPrime (w : Width) (x : BitVec w.bits) : BitVec w.bits :=
  BitVec.ofNat w.bits (x.toNat * (Config.prime w).toNat)

/-- `xor_reduce`, `xor_reduce_W(x, b)`: the byte XORed into bits 7 to 0 (R81). -/
def xorReduce (w : Width) (x : BitVec w.bits) (b : Byte) : BitVec w.bits :=
  x ^^^ byteAt w.bits b

/-- `upd_fnv1_W(r, b)`: multiply, then XOR (R83). -/
def updFnv1 (w : Width) (r : BitVec w.bits) (b : Byte) : BitVec w.bits :=
  xorReduce w (mulPrime w r) b

/-- `upd_fnv1a_W(r, b)`: XOR, then multiply (R84). -/
def updFnv1a (w : Width) (r : BitVec w.bits) (b : Byte) : BitVec w.bits :=
  mulPrime w (xorReduce w r b)

/-- `lane_update(i, r, b)`: the order of the lane's variant at the lane's width (R85). -/
def laneUpdate (l : Lane) (r : BitVec l.bits) (b : Byte) : BitVec l.bits :=
  match laneVariant l with
  | .fnv1 => updFnv1 l.width r b
  | .fnv1a => updFnv1a l.width r b

/-- `OFFSET_BASIS(i)`, the constant of the lane's width (R8). -/
def offsetBasis (l : Lane) : BitVec l.bits := Config.offsetBasis l.width

/-- `fold_i(r, S)` (R89). -/
def foldBytes (l : Lane) (r : BitVec l.bits) : List Byte → BitVec l.bits
  | [] => r
  | b :: bs => foldBytes l (laneUpdate l r b) bs

/-- `hash_i(S)` (R89). -/
def hashOf (l : Lane) (bs : List Byte) : BitVec l.bits := foldBytes l (offsetBasis l) bs

/-- The positions of the set bits of `PRIME_W`, as the shift-and-add forms list them (R88). -/
def primeShifts : Width → List Nat
  | .w32 => [0, 1, 4, 7, 8, 24]
  | .w64 => [0, 1, 4, 5, 7, 8, 40]
  | .w128 => [0, 1, 3, 4, 5, 8, 88]

/-- The shift-and-add form of the multiplier, a consequence of R80 that a model can test itself with (R88). -/
def mulShiftAdd (w : Width) (x : BitVec w.bits) : BitVec w.bits :=
  ((primeShifts w).map (fun k => x <<< k)).sum

end Sys2Proof.Machine
end

