-- ==== Sys2Proof/Machine/Flags.lean ====
section
/-! DEFINITION. There are no flags, condition codes or predicates (10_state.md R30). What the engine signals with are the three
outputs of the step, `(rsp_valid, rsp_data, cmd_err)` (00_scope.md R11, R12), and this file gives their three forms. -/

namespace Sys2Proof.Machine

/-- `(0, 0, 0)`: NOP, WRITE, RESET, the idle step and the hardware reset step (R12, R129, R171). -/
def PortOut.quiet : PortOut := { rspValid := false, rspData := 0#128, cmdErr := false }

/-- `(1, zext_128(v), 0)`: the response of a FINISH (R120). -/
def PortOut.response {n : Nat} (v : BitVec n) : PortOut :=
  { rspValid := true, rspData := onResponseBus v, cmdErr := false }

/-- `(0, 0, 1)`: the pulse of an IllegalCommand step (R152). -/
def PortOut.error : PortOut := { rspValid := false, rspData := 0#128, cmdErr := true }

end Sys2Proof.Machine
end

