-- ==== Sys2Proof/Machine/Ops.lean ====
section
/-! DEFINITION. The named operations: reading and writing the register file, driving the outputs, taking the next input tuple,
the hardware reset, the idle step, and the one exception, IllegalCommand. There is no memory to operate on (20_memory.md R40),
and no return from an exception: the step after an IllegalCommand step is an ordinary one (60_exceptions.md R156). -/

namespace Sys2Proof.Machine

/-- The read of `D[i]`, whole (R16, R44). -/
def DigestFile.read (r : DigestFile) : (l : Lane) → BitVec l.bits
  | .fnv1_32 => r.d0
  | .fnv1a_32 => r.d1
  | .fnv1_64 => r.d2
  | .fnv1a_64 => r.d3
  | .fnv1_128 => r.d4
  | .fnv1a_128 => r.d5

/-- `register_update(i, v)`, the write `D[i] <- v`; every other register is unchanged (R82). -/
def DigestFile.registerUpdate (r : DigestFile) : (l : Lane) → BitVec l.bits → DigestFile
  | .fnv1_32, v => { r with d0 := v }
  | .fnv1a_32, v => { r with d1 := v }
  | .fnv1_64, v => { r with d2 := v }
  | .fnv1a_64, v => { r with d3 := v }
  | .fnv1_128, v => { r with d4 := v }
  | .fnv1a_128, v => { r with d5 := v }

/-- `register_update(i, v i)` for every lane the mask selects, in one step. The values are given beforehand, from the state at
the start of the step (R82, R100, R140). -/
def DigestFile.updateSelected (r : DigestFile) (m : LaneMask) (v : (l : Lane) → BitVec l.bits) : DigestFile :=
  lanes.foldl (fun acc l => if selects m l then acc.registerUpdate l (v l) else acc) r

/-- The registers after a WRITE(m, b) (R100). -/
def DigestFile.afterWrite (r : DigestFile) (m : LaneMask) (b : Byte) : DigestFile :=
  r.updateSelected m (fun l => laneUpdate l (r.read l) b)

/-- The registers after a RESET(m) (R140). -/
def DigestFile.afterReset (r : DigestFile) (m : LaneMask) : DigestFile :=
  r.updateSelected m offsetBasis

/-- The state with the register file `r`. -/
def State.withRegs (s : State) (r : DigestFile) : State := { s with regs := r }

/-- The step's output tuple joins the observation (R13). -/
def State.drive (s : State) (o : PortOut) : State := { s with observed := s.observed ++ [o] }

/-- A fault joins the record (R152). -/
def State.record (s : State) (f : Fault) : State := { s with faults := s.faults ++ [f] }

/-- The FINISH of a lane: its register on the response bus, no register written (R120, R127). -/
def State.finish (s : State) (l : Lane) : State := s.drive (PortOut.response (s.regs.read l))

/-- The tuple of an `idle` line (R75). DESIGN CHOICE (log 5), safe: R75 leaves the value on `cmd` open; it is 0x0000 here, and the
step ignores it whatever it is (R73, R143). -/
def PortIn.idle : PortIn := { rst := false, cmdValid := false, cmd := 0#16 }

/-- The tuple that presents a command word (R75). -/
def PortIn.command (w : CmdWord) : PortIn := { rst := false, cmdValid := true, cmd := w }

/-- The tuple of an `hwreset` line (R75). DESIGN CHOICE (log 5), safe: R75 leaves `cmd_valid` and `cmd` open; they are 0 and 0x0000
here, and the step ignores both whatever they are (R73, R172). -/
def PortIn.hwreset : PortIn := { rst := true, cmdValid := false, cmd := 0#16 }

/-- The tuple of the next step. DESIGN CHOICE, log 1: a host that has listed nothing more presents idle tuples. -/
def State.nextInput (s : State) : PortIn := s.inputs.headD PortIn.idle

/-- The state with the next step's tuple taken from the list. -/
def State.takeInput (s : State) : State := { s with inputs := s.inputs.tail }

/-- The state in which the host presents `p` next, and then what it would have presented. -/
def State.present (s : State) (p : PortIn) : State := { s with inputs := p :: s.inputs }

/-- The hardware reset step: all six lanes constructed, outputs `(0, 0, 0)` (R170, R171). -/
def hardwareReset (s : State) : State := (s.withRegs DigestFile.reset).drive PortOut.quiet

/-- The idle step: no register written, outputs `(0, 0, 0)` (R143). -/
def idleStep (s : State) : State := s.drive PortOut.quiet

/-- `raise IllegalCommand(cmd)` (R16, R151, R152): no register written, outputs `(0, 0, 1)`, the fault recorded; nothing saved
and control goes nowhere (R155). -/
def raiseIllegalCommand (w : CmdWord) (s : State) : State := (s.drive PortOut.error).record (.illegalCommand w)

end Sys2Proof.Machine
end

