-- ==== Sys2Proof/Machine/Finish.lean ====
section
/-! DEFINITION. The meanings of FINISH, one per lane (42_finish.md). None writes a register or raises an exception (R120). -/

namespace Sys2Proof.Machine

/-- FINISH of lane 0 (R121). -/
def execFinishFnv1_32 (s : State) : Host.Outcome State Fault Refusal := .next (s.finish .fnv1_32)

/-- FINISH of lane 1 (R122). -/
def execFinishFnv1a_32 (s : State) : Host.Outcome State Fault Refusal := .next (s.finish .fnv1a_32)

/-- FINISH of lane 2 (R123). -/
def execFinishFnv1_64 (s : State) : Host.Outcome State Fault Refusal := .next (s.finish .fnv1_64)

/-- FINISH of lane 3 (R124). -/
def execFinishFnv1a_64 (s : State) : Host.Outcome State Fault Refusal := .next (s.finish .fnv1a_64)

/-- FINISH of lane 4 (R125). -/
def execFinishFnv1_128 (s : State) : Host.Outcome State Fault Refusal := .next (s.finish .fnv1_128)

/-- FINISH of lane 5 (R126). -/
def execFinishFnv1a_128 (s : State) : Host.Outcome State Fault Refusal := .next (s.finish .fnv1a_128)

end Sys2Proof.Machine
end

