-- ==== Sys2Proof/Machine/ResetNop.lean ====
section
/-! DEFINITION. The meanings of RESET and NOP (43_reset_nop.md). -/

namespace Sys2Proof.Machine

/-- RESET(m): every selected lane back to its offset basis, whatever it held; outputs `(0, 0, 0)`; no exception (R140). -/
def execReset (m : LaneMask) (s : State) : Host.Outcome State Fault Refusal :=
  .next ((s.withRegs (s.regs.afterReset m)).drive PortOut.quiet)

/-- NOP: no register written, outputs `(0, 0, 0)` (R142). -/
def execNop (s : State) : Host.Outcome State Fault Refusal := .next (s.drive PortOut.quiet)

end Sys2Proof.Machine
end

