-- ==== Sys2Proof/Machine/Write.lean ====
section
/-! DEFINITION. The meaning of WRITE (41_write.md). -/

namespace Sys2Proof.Machine

/-- WRITE(m, b): every selected lane is updated by the byte, each from its value at the start of the step; outputs `(0, 0, 0)`;
no exception for any mask, byte or register contents (R100 to R108). -/
def execWrite (m : LaneMask) (b : Byte) (s : State) : Host.Outcome State Fault Refusal :=
  .next ((s.withRegs (s.regs.afterWrite m b)).drive PortOut.quiet)

end Sys2Proof.Machine
end

