-- ==== Sys2Proof/Machine/Dispatch.lean ====
section
/-! DEFINITION. `exec`: one arm per command. It is the step of a decoded command, its input tuple already taken. -/

namespace Sys2Proof.Machine

def exec (i : Instr) (s : State) : Host.Outcome State Fault Refusal :=
  match i with
  | .nop => Sys2Proof.Machine.execNop s
  | .write m b => Sys2Proof.Machine.execWrite m b s
  | .reset m => Sys2Proof.Machine.execReset m s
  | .finishFnv1_32 => Sys2Proof.Machine.execFinishFnv1_32 s
  | .finishFnv1a_32 => Sys2Proof.Machine.execFinishFnv1a_32 s
  | .finishFnv1_64 => Sys2Proof.Machine.execFinishFnv1_64 s
  | .finishFnv1a_64 => Sys2Proof.Machine.execFinishFnv1a_64 s
  | .finishFnv1_128 => Sys2Proof.Machine.execFinishFnv1_128 s
  | .finishFnv1a_128 => Sys2Proof.Machine.execFinishFnv1a_128 s

end Sys2Proof.Machine
end

