-- ==== Sys2Proof/Machine/Clock.lean ====
section
/-! DEFINITION. One rising edge of `clk`: the step function of 00_scope.md R12 in the order of priority of 60_exceptions.md
R154, and the presenting of a command word to the next step. -/

namespace Sys2Proof.Machine

/-- The step with the input tuple `p` (R12): hardware reset first, then the idle step, then the word on `cmd`, illegal or
performed (R154). -/
def clockEdge (p : PortIn) (s : State) : Host.Outcome State Fault Refusal :=
  if p.rst then .next (hardwareReset s)
  else if p.cmdValid then
    match decode p.cmd with
    | .command i => exec i s
    | .illegal _ => .next (raiseIllegalCommand p.cmd s)
  else .next (idleStep s)

/-- The host presents the command word next, in a step with `rst = 0` and `cmd_valid = 1` (R75). -/
def presentCommand (s : State) (w : CmdWord) : State := s.present (PortIn.command w)

end Sys2Proof.Machine
end

