-- ==== Sys2Proof/Machine/Step.lean ====
section
/-! DEFINITION. The step: the next input tuple is taken and the clock edge performed with it. The block fetches nothing
(20_memory.md R52); the command is the word on `cmd` in the step. -/

namespace Sys2Proof.Machine

/-- One step of the machine (R10, R12). -/
def step (s : State) : Host.Outcome State Fault Refusal := clockEdge s.nextInput s.takeInput

/-- `s` with the table's word presented to the very next step; the tuples the host had listed follow it (log 1). -/
def State.withFetchWord (s : State) (nbits w : Nat) : State := presentCommand s (CmdWord.ofTable nbits w)

end Sys2Proof.Machine
end

