-- ==== Sys2Proof/Machine/Assembly.lean ====
section
/-! DEFINITION. The assembly lines of 30_encoding.md R74 to R77: commands, the directives `idle` and `hwreset`, the
pseudo-instructions, and disassembly. One line is one step, or for a pseudo-instruction the steps it expands to. A text is a
list of characters. -/

namespace Sys2Proof.Machine

/-- One line of text, without its line end. -/
abbrev Text := List Char

/-- `<lane>`: a lane name or `#n` (R74). -/
inductive LaneRef where
  | named (l : Lane)
  | numbered (n : Nat)
deriving DecidableEq, Repr

/-- `<lanes>`: a brace list of lanes, `all`, or `#mask` (R74). -/
inductive LanesRef where
  | listed (ls : List LaneRef)
  | all
  | masked (n : Nat)
deriving DecidableEq, Repr

/-- A line. A byte is kept as the number it was written as, a string as the codes of its characters. -/
inductive AsmLine where
  /-- A blank or comment line: no step. -/
  | empty
  | nop
  | write (ls : LanesRef) (b : Nat)
  | reset (ls : LanesRef)
  | finish (l : LaneRef)
  /-- A step with `cmd_valid = 0` and `rst = 0` (R75). -/
  | idle
  /-- A step with `rst = 1` (R75). -/
  | hwreset
  /-- A reserved word, as disassembly prints it (R77). -/
  | illegal (w : Nat)
  /-- `new` (R76). -/
  | new
  /-- `write.s` (R76). -/
  | writeString (ls : LanesRef) (bs : List Nat)
  /-- `write.b` (R76). -/
  | writeBytes (ls : LanesRef) (bs : List Nat)
  /-- `hash` (R76). -/
  | hash (l : LaneRef) (bs : List Nat)
  /-- `finish.all` (R76). -/
  | finishAll
deriving DecidableEq, Repr

/-! ### What a line means -/

/-- All the values, if none is missing. -/
def allSome {α : Type} : List (Option α) → Option (List α)
  | [] => some []
  | none :: _ => none
  | some a :: rest => (allSome rest).map (fun as => a :: as)

/-- The lane a reference names; `#6` and above name none (R74). -/
def LaneRef.lane? : LaneRef → Option Lane
  | .named l => some l
  | .numbered n => laneOfNumber n

/-- The mask the lanes operand stands for; a number above 63 is none (R74). -/
def LanesRef.mask? : LanesRef → Option LaneMask
  | .listed ls => (allSome (ls.map LaneRef.lane?)).map maskOfLanes
  | .all => some allLanes
  | .masked n => if n < 64 then some (BitVec.ofNat 6 n) else none

/-- The byte a number stands for; above 255 it is none (R74). -/
def byteOfNumber (n : Nat) : Option Byte := if n < 256 then some (BitVec.ofNat 8 n) else none

/-- The FINISH of a lane. -/
def finishOfLane : Lane → Instr
  | .fnv1_32 => .finishFnv1_32
  | .fnv1a_32 => .finishFnv1a_32
  | .fnv1_64 => .finishFnv1_64
  | .fnv1a_64 => .finishFnv1a_64
  | .fnv1_128 => .finishFnv1_128
  | .fnv1a_128 => .finishFnv1a_128

/-- The expansion of the pseudo-instructions (R76); any other line stands for itself. -/
def AsmLine.expand : AsmLine → List AsmLine
  | .empty => []
  | .new => [.reset .all]
  | .writeString ls bs => bs.map (AsmLine.write ls)
  | .writeBytes ls bs => bs.map (AsmLine.write ls)
  | .hash l bs => AsmLine.reset (.listed [l]) :: bs.map (AsmLine.write (.listed [l])) ++ [AsmLine.finish l]
  | .finishAll => (List.range 6).map (fun n => AsmLine.finish (.numbered n))
  | line => [line]

/-- The command a command line stands for (R74); none where an operand is out of range or the line is no command. -/
def AsmLine.command? : AsmLine → Option Instr
  | .nop => some .nop
  | .write ls b =>
    match ls.mask?, byteOfNumber b with
    | some m, some v => some (.write m v)
    | _, _ => none
  | .reset ls => ls.mask?.map Instr.reset
  | .finish l => l.lane?.map finishOfLane
  | _ => none

/-- The reserved word an `.illegal` line stands for (R77); none where the number is a legal word or no word, a DESIGN CHOICE (log 5),
safe. -/
def illegalWord? (n : Nat) : Option CmdWord :=
  if n < 65536 ∧ (decode (BitVec.ofNat 16 n)).toInstr = none then some (BitVec.ofNat 16 n) else none

/-- The input tuple of an expanded line (R74, R75). -/
def AsmLine.tuple? : AsmLine → Option PortIn
  | .idle => some PortIn.idle
  | .hwreset => some PortIn.hwreset
  | .illegal w => (illegalWord? w).map PortIn.command
  | line => line.command?.map (fun i => PortIn.command (encode i))

/-- The input tuples of a line, in order; none where a line of its expansion has an operand out of range. DESIGN CHOICE (log 5),
safe: R76 does not say what an out-of-range `<lanes>` is in a `write.s` of the empty string, which expands to no command; the
expansion has no line that could be refused, so `write.s #64, ""` is zero steps. -/
def AsmLine.tuples? (line : AsmLine) : Option (List PortIn) := allSome (line.expand.map AsmLine.tuple?)

/-! ### Reading a line -/

/-- The pieces of a line. -/
inductive Token where
  | word (cs : Text)
  | comma
  | openBrace
  | closeBrace
  | character (c : Char)
  | string (cs : Text)
deriving DecidableEq, Repr

/-- Where the reader stands: in or between words, after an opening quote, after the quoted character, in a string. Words and
strings are gathered last character first. -/
inductive LexState where
  | words (acc : Text)
  | quote
  | quoted (c : Char)
  | string (acc : Text)
deriving DecidableEq, Repr

/-- The word gathered so far, if any, before the pieces that follow. -/
def flush (acc : Text) (ts : List Token) : List Token :=
  if acc = [] then ts else .word acc.reverse :: ts

/-- The pieces of a text; `;` starts a comment (R74). DESIGN CHOICE (log 5), safe: what separates pieces, and what quotes, commas,
braces and semicolons do within them, where R74 does not say. -/
def lex : LexState → Text → Option (List Token)
  | .words acc, [] => some (flush acc [])
  | .words acc, c :: cs =>
    if c = ';' then some (flush acc [])
    else if c = ' ' ∨ c = '\t' then (lex (.words []) cs).map (flush acc)
    else if c = ',' then (lex (.words []) cs).map (fun ts => flush acc (.comma :: ts))
    else if c = Char.ofNat 0x7b then (lex (.words []) cs).map (fun ts => flush acc (.openBrace :: ts))
    else if c = Char.ofNat 0x7d then (lex (.words []) cs).map (fun ts => flush acc (.closeBrace :: ts))
    else if c = Char.ofNat 0x27 then (lex .quote cs).map (flush acc)
    else if c = Char.ofNat 0x22 then (lex (.string []) cs).map (flush acc)
    else lex (.words (c :: acc)) cs
  | .quote, [] => none
  | .quote, c :: cs => lex (.quoted c) cs
  | .quoted _, [] => none
  | .quoted c, d :: cs => if d = Char.ofNat 0x27 then (lex (.words []) cs).map (fun ts => .character c :: ts) else none
  | .string _, [] => none
  | .string acc, c :: cs =>
    if c = Char.ofNat 0x22 then (lex (.words []) cs).map (fun ts => .string acc.reverse :: ts)
    else lex (.string (c :: acc)) cs

/-- The value of a digit. DESIGN CHOICE (log 5), safe: hexadecimal digits are read in both cases. -/
def digitValue (c : Char) : Option Nat :=
  let n := c.toNat
  if 0x30 ≤ n ∧ n ≤ 0x39 then some (n - 0x30)
  else if 0x61 ≤ n ∧ n ≤ 0x66 then some (n - 0x61 + 10)
  else if 0x41 ≤ n ∧ n ≤ 0x46 then some (n - 0x41 + 10)
  else none

/-- The number whose digits follow `acc`. -/
def digitsValue (base : Nat) : Nat → Text → Option Nat
  | acc, [] => some acc
  | acc, c :: cs =>
    match digitValue c with
    | some d => if d < base then digitsValue base (acc * base + d) cs else none
    | none => none

/-- A number in decimal or `0x` hexadecimal (R74). DESIGN CHOICE (log 5), safe: leading zeros are taken, as in `007` or `0x0061`,
and the prefix `0X` is not. -/
def numberOfText : Text → Option Nat
  | '0' :: 'x' :: c :: cs => digitsValue 16 0 (c :: cs)
  | c :: cs => digitsValue 10 0 (c :: cs)
  | [] => none

/-- The ASCII code of a character; a character outside ASCII has none (93_implementation_defined.md K2). -/
def asciiCode (c : Char) : Option Nat := if c.toNat < 128 then some c.toNat else none

/-- The lane names (R2). -/
def laneName : Lane → Text
  | .fnv1_32 => ['f', 'n', 'v', '1', '_', '3', '2']
  | .fnv1a_32 => ['f', 'n', 'v', '1', 'a', '_', '3', '2']
  | .fnv1_64 => ['f', 'n', 'v', '1', '_', '6', '4']
  | .fnv1a_64 => ['f', 'n', 'v', '1', 'a', '_', '6', '4']
  | .fnv1_128 => ['f', 'n', 'v', '1', '_', '1', '2', '8']
  | .fnv1a_128 => ['f', 'n', 'v', '1', 'a', '_', '1', '2', '8']

/-- The mnemonics of R74 to R77. -/
def wordNop : Text := ['n', 'o', 'p']
def wordWrite : Text := ['w', 'r', 'i', 't', 'e']
def wordReset : Text := ['r', 'e', 's', 'e', 't']
def wordFinish : Text := ['f', 'i', 'n', 'i', 's', 'h']
def wordIdle : Text := ['i', 'd', 'l', 'e']
def wordHwreset : Text := ['h', 'w', 'r', 'e', 's', 'e', 't']
def wordIllegal : Text := ['.', 'i', 'l', 'l', 'e', 'g', 'a', 'l']
def wordNew : Text := ['n', 'e', 'w']
def wordWriteString : Text := wordWrite ++ ['.', 's']
def wordWriteBytes : Text := wordWrite ++ ['.', 'b']
def wordHash : Text := ['h', 'a', 's', 'h']
def wordFinishAll : Text := wordFinish ++ ['.', 'a', 'l', 'l']
def wordAll : Text := ['a', 'l', 'l']

/-- `<lane>` (R74): a lane name, or `#` and a number. DESIGN CHOICE (log 5), safe: R74 gives `#0` to `#5` and does not say how the
number may be spelled; it is read as any number is, so `#0x3` and `#03` are lane 3 too. -/
def readLane (t : Text) : Option LaneRef :=
  match t with
  | '#' :: ds => (numberOfText ds).map LaneRef.numbered
  | name => (lanes.find? (fun l => laneName l = name)).map LaneRef.named

/-- The lanes of a brace list after its opening brace, and what follows the closing one (R74). DESIGN CHOICE (log 5), safe: a
trailing comma is refused. -/
def readLaneList : List Token → Option (List LaneRef × List Token)
  | .word t :: .closeBrace :: rest => (readLane t).map (fun l => ([l], rest))
  | .word t :: .comma :: rest =>
    match readLane t, readLaneList rest with
    | some l, some (ls, rest') => some (l :: ls, rest')
    | _, _ => none
  | _ => none

/-- `<lanes>` and what follows it (R74). -/
def readLanes : List Token → Option (LanesRef × List Token)
  | .openBrace :: .closeBrace :: rest => some (.listed [], rest)
  | .openBrace :: rest => (readLaneList rest).map (fun r => (.listed r.1, r.2))
  | .word ('#' :: ds) :: rest => (numberOfText ds).map (fun n => (.masked n, rest))
  | .word w :: rest => if w = wordAll then some (.all, rest) else none
  | _ => none

/-- `<byte>`: a number or a quoted character (R74). -/
def readByte : Token → Option Nat
  | .word ds => numberOfText ds
  | .character c => asciiCode c
  | _ => none

/-- `<lanes>, ` and what follows the comma. -/
def readLanesThen (ts : List Token) : Option (LanesRef × List Token) :=
  match readLanes ts with
  | some (ls, .comma :: rest) => some (ls, rest)
  | _ => none

/-- The line that starts with mnemonic `w` and goes on with the pieces `ts`. DESIGN CHOICE (log 5), safe: R77 gives the number of an
`.illegal` line as `0x` and four hexadecimal digits; it is read as any number is, so `.illegal 1` and `.illegal 0x1` are
`.illegal 0x0001` too. A `write.b` with no byte is no line: R76 lists at least one. -/
def readOperands (w : Text) (ts : List Token) : Option AsmLine :=
  if w = wordWrite then
    match readLanesThen ts with
    | some (ls, [b]) => (readByte b).map (AsmLine.write ls)
    | _ => none
  else if w = wordReset then
    match readLanes ts with
    | some (ls, []) => some (.reset ls)
    | _ => none
  else if w = wordFinish then
    match ts with
    | [.word l] => (readLane l).map AsmLine.finish
    | _ => none
  else if w = wordIllegal then
    match ts with
    | [.word n] => (numberOfText n).map AsmLine.illegal
    | _ => none
  else if w = wordWriteString then
    match readLanesThen ts with
    | some (ls, [.string cs]) => (allSome (cs.map asciiCode)).map (AsmLine.writeString ls)
    | _ => none
  else if w = wordWriteBytes then
    match readLanesThen ts with
    | some (ls, b :: bs) => (allSome ((b :: bs).map readByte)).map (AsmLine.writeBytes ls)
    | _ => none
  else if w = wordHash then
    match ts with
    | [.word l, .comma, .string cs] =>
      match readLane l, allSome (cs.map asciiCode) with
      | some l', some bs => some (.hash l' bs)
      | _, _ => none
    | _ => none
  else if ts = [] then
    if w = wordNop then some .nop
    else if w = wordIdle then some .idle
    else if w = wordHwreset then some .hwreset
    else if w = wordNew then some .new
    else if w = wordFinishAll then some .finishAll
    else none
  else none

/-- The line of a text (R74 to R77). DESIGN CHOICE (log 5), safe: a blank or comment line is no step. -/
def readLine (t : Text) : Option AsmLine :=
  match lex (.words []) t with
  | some [] => some .empty
  | some (.word w :: ts) => readOperands w ts
  | _ => none

/-- The input tuples of a text line. -/
def assembleLine (t : Text) : Option (List PortIn) := (readLine t).bind AsmLine.tuples?

/-- The input tuples of a list of lines, in order. -/
def assemble (ts : List Text) : Option (List PortIn) := (allSome (ts.map assembleLine)).map List.flatten

/-! ### Printing a word -/

/-- A hexadecimal digit. DESIGN CHOICE (log 5), safe: in lower case, where R77 does not say. -/
def hexDigit (n : Nat) : Char := if n < 10 then Char.ofNat (0x30 + n) else Char.ofNat (0x61 + (n - 10))

/-- `0x<two hex digits>`. -/
def hexTwo (n : Nat) : Text := ['0', 'x', hexDigit (n / 16 % 16), hexDigit (n % 16)]

/-- `0x<four hex digits>`. -/
def hexFour (n : Nat) : Text :=
  ['0', 'x', hexDigit (n / 4096 % 16), hexDigit (n / 256 % 16), hexDigit (n / 16 % 16), hexDigit (n % 16)]

/-- The line of a command (R77). DESIGN CHOICE (log 5), safe: R77 fixes how `<lanes>` and `<byte>` print, not `<lane>`, which R74
lets be a name or `#0` to `#5`; the `<lane>` of a FINISH prints as the lane name. -/
def printInstr : Instr → Text
  | .nop => wordNop
  | .write m b => wordWrite ++ [' ', '#'] ++ hexTwo m.toNat ++ [',', ' '] ++ hexTwo b.toNat
  | .reset m => wordReset ++ [' ', '#'] ++ hexTwo m.toNat
  | .finishFnv1_32 => wordFinish ++ [' '] ++ laneName .fnv1_32
  | .finishFnv1a_32 => wordFinish ++ [' '] ++ laneName .fnv1a_32
  | .finishFnv1_64 => wordFinish ++ [' '] ++ laneName .fnv1_64
  | .finishFnv1a_64 => wordFinish ++ [' '] ++ laneName .fnv1a_64
  | .finishFnv1_128 => wordFinish ++ [' '] ++ laneName .fnv1_128
  | .finishFnv1a_128 => wordFinish ++ [' '] ++ laneName .fnv1a_128

/-- Disassembly: the line of a word (R77). -/
def disassemble (w : CmdWord) : Text :=
  match decode w with
  | .command i => printInstr i
  | .illegal _ => wordIllegal ++ [' '] ++ hexFour w.toNat

end Sys2Proof.Machine
end

