-- ==== Sys2Proof/Machine/Run.lean ====
section
/-! DEFINITION. Runs (00_scope.md R13): a start state and a finite or infinite sequence of input tuples. A finite run is `run` over
the tuples listed in the start state, its observation is `observed` and the last state. An infinite run is `stateAfter` and
`observationAt`: the sequence is an argument, a function of the step number, so that the state stays plain data. -/

namespace Sys2Proof.Machine

/-- `n` steps one after the other: a finite run of R13, ending where a step does not answer a next state. -/
def run : Nat → State → Host.Outcome State Fault Refusal
  | 0, s => .next s
  | n + 1, s =>
    match step s with
    | .next t => run n t
    | .fault f => .fault f
    | .refused r => .refused r

/-- The run from `s` over the infinite sequence `ps`, after its first `n` steps: step `k` is the step in which the host presents
`ps k` (R13). The tuples listed in `s` wait behind the sequence and none of them is ever taken. -/
def stateAfter (ps : Nat → PortIn) (s : State) : Nat → Host.Outcome State Fault Refusal
  | 0 => .next s
  | n + 1 =>
    match stateAfter ps s n with
    | .next t => step (t.present (ps n))
    | .fault f => .fault f
    | .refused r => .refused r

/-- The observation of the run from `s` over the infinite sequence `ps`: the output tuple of its step `k`, the last of the
observation so far; none where the run did not reach that step (R13). -/
def observationAt (ps : Nat → PortIn) (s : State) (k : Nat) : Option PortOut :=
  match stateAfter ps s (k + 1) with
  | .next t => t.observed.getLast?
  | .fault _ => none
  | .refused _ => none

end Sys2Proof.Machine
end

