-- ==== Sys2Proof/Safety.lean ====
section
/-! DEFINITION. What a clean run is, what the host owes, and the terms the statements use: which tuples write a byte to a lane,
which restart it, and the invariant of the record. -/

namespace Sys2Proof.Machine

/-- A clean state: no fault recorded (R152). -/
def State.clean (s : State) : Bool := s.faults.isEmpty

/-- An IllegalCommand step: `rst = 0`, `cmd_valid = 1` and a reserved word (R151). -/
def PortIn.illegal (p : PortIn) : Bool := !p.rst && p.cmdValid && !CmdWord.wellFormed p.cmd

/-- The host's duty: at least one step with `rst = 1` before the first step with `cmd_valid = 1` (R14, R174). -/
def bootDuty : List PortIn → Bool
  | [] => true
  | p :: ps => if p.cmdValid then false else if p.rst then true else bootDuty ps

/-- The command a tuple has the engine perform, if any (R12). -/
def PortIn.performs (p : PortIn) : Option Instr :=
  if p.rst || !p.cmdValid then none else (decode p.cmd).toInstr

/-- The byte a tuple writes to the lane, if any (R100). -/
def PortIn.writes (p : PortIn) (l : Lane) : Option Byte :=
  match p.performs with
  | some (.write m b) => if selects m l then some b else none
  | _ => none

/-- The tuple puts the lane back to its offset basis: `rst`, or a RESET that selects it (R109, R140, R170). -/
def PortIn.restarts (p : PortIn) (l : Lane) : Bool :=
  p.rst ||
    match p.performs with
    | some (.reset m) => selects m l
    | _ => false

/-- The bytes a sequence of tuples writes to the lane, in step order (R41, R48). -/
def bytesTo (l : Lane) (ps : List PortIn) : List Byte := ps.filterMap (fun p => p.writes l)

/-- The bytes written to the lane since it last held its offset basis: `bs` before the tuple `p`, and this after it (R89). -/
def bytesSinceRestart (l : Lane) (bs : List Byte) (p : PortIn) : List Byte :=
  if p.restarts l then [] else bs ++ (p.writes l).toList

/-- The laws of one output tuple: no data without a response (R129), no response with an error (R152). -/
def PortOut.lawful (o : PortOut) : Bool := (o.rspValid || o.rspData == 0#128) && !(o.cmdErr && o.rspValid)

/-- The fault is one the spec knows: its word is reserved (R151). -/
def Fault.genuine : Fault → Bool
  | .illegalCommand w => !CmdWord.wellFormed w

/-- The invariant of the record: every output tuple is lawful, every fault genuine, and there are as many faults as `cmd_err`
pulses (R11, R151, R152). -/
def State.recordLawful (s : State) : Bool :=
  s.observed.all PortOut.lawful && s.faults.all Fault.genuine &&
    s.faults.length == s.observed.countP (fun o => o.cmdErr)

end Sys2Proof.Machine
end

