-- ==== Sys2Proof/Certificates/Slice0/Obligations.lean ====
section
/-! DEFINITION. The statements for the provers. Each docstring names the rule of spec/ it formalises.

How to read them. `s.regs` is the block's state (10_state.md R20). A step's output tuple `(rsp_valid, rsp_data, cmd_err)` is the
entry the step appends to `observed`, and an IllegalCommand step appends its word to `faults`; `inputs` holds the tuples still to
be presented. These three fields are the model's own (assumption log 1, 2, 3). `step (s.present p)` is the step of
00_scope.md R12 with the input tuple `p` in the state `s`; `exec i s` is that step for a decoded command `i`. -/

open Sys2Proof Sys2Proof.Machine

/-! ### Constants and lanes -/

/-- 00_scope.md R5, R6, R7: the constants, in decimal and in hexadecimal. -/
def Obligations.ConstantsInDecimalAndHexadecimal : Prop :=
  (Config.offsetBasis .w32).toNat = 2166136261 ∧ Config.offsetBasis .w32 = 0x811c9dc5#32 ∧
  (Config.prime .w32).toNat = 16777619 ∧ Config.prime .w32 = 0x01000193#32 ∧
  16777619 = 2 ^ 24 + 2 ^ 8 + 0x93 ∧
  (Config.offsetBasis .w64).toNat = 14695981039346656037 ∧ Config.offsetBasis .w64 = 0xcbf29ce484222325#64 ∧
  (Config.prime .w64).toNat = 1099511628211 ∧ Config.prime .w64 = 0x00000100000001b3#64 ∧
  1099511628211 = 2 ^ 40 + 2 ^ 8 + 0xb3 ∧
  (Config.offsetBasis .w128).toNat = 144066263297769815596495629667062367629 ∧
  Config.offsetBasis .w128 = 0x6c62272e07bb014262b821756295c58d#128 ∧
  (Config.prime .w128).toNat = 309485009821345068724781371 ∧
  Config.prime .w128 = 0x0000000001000000000000000000013b#128 ∧
  309485009821345068724781371 = 2 ^ 88 + 2 ^ 8 + 0x3b

/-- 00_scope.md R2 and 20_memory.md R46: the lane index gives the variant and the width; indexes 0 to 5 name the six lanes and
nothing else names one. -/
def Obligations.LaneNumberGivesVariantAndWidth : Prop :=
  ∀ l : Lane,
    (laneVariant l = .fnv1 ↔ laneNumber l % 2 = 0) ∧ (laneVariant l = .fnv1a ↔ laneNumber l % 2 = 1) ∧
    l.bits = 32 * 2 ^ (laneNumber l / 2) ∧
    (∀ n : Nat, laneOfNumber n = some l ↔ n = laneNumber l) ∧
    (∀ n : Nat, laneOfNumber n = none ↔ 6 ≤ n)

/-! ### Encoding -/

/-- 30_encoding.md R63 to R66, R74: the word of every command as a number. -/
def Obligations.CommandWordsAsNumbers : Prop :=
  (encode .nop).toNat = 0x0000 ∧
  (∀ (m : LaneMask) (b : Byte), (encode (.write m b)).toNat = 0x4000 + 256 * m.toNat + b.toNat) ∧
  (∀ m : LaneMask, (encode (.reset m)).toNat = 0x8000 + 256 * m.toNat) ∧
  (∀ l : Lane, (encode (finishOfLane l)).toNat = 0xc000 + 256 * laneNumber l)

/-- Decoding the word of any command gives the command back, with every operand at every value (30_encoding.md R63 to R66,
R72). -/
def Obligations.DecodeOfEncode : Prop :=
  ∀ i : Instr, decode (encode i) = .command i

/-- A legal word has one spelling: encoding what it decodes to gives the word back (30_encoding.md R72). -/
def Obligations.EncodeOfDecode : Prop :=
  ∀ (w : CmdWord) (i : Instr), decode w = .command i → encode i = w

/-- The decoder accepts exactly the words that match a row of the opcode table (30_encoding.md R70). -/
def Obligations.DecoderAcceptsExactlyTheTable : Prop :=
  ∀ w : CmdWord, (∃ i : Instr, decode w = .command i) ↔ CmdWord.wellFormed w = true

/-- 30_encoding.md R72: `decode` case by case on `OP`, `SEL` and `DATA`, the fields taken by arithmetic on the word's number
(`OP = w / 2^14`, `SEL = w / 2^8 mod 2^6`, `DATA = w mod 2^8`). -/
def Obligations.DecodeByFields : Prop :=
  ∀ w : CmdWord,
    let op := w.toNat / 2 ^ 14
    let sel := w.toNat / 2 ^ 8 % 2 ^ 6
    let data := w.toNat % 2 ^ 8
    (op = 0 → (decode w).toInstr = if sel = 0 ∧ data = 0 then some .nop else none) ∧
    (op = 1 → (decode w).toInstr = some (.write (BitVec.ofNat 6 sel) (BitVec.ofNat 8 data))) ∧
    (op = 2 → (decode w).toInstr = if data = 0 then some (.reset (BitVec.ofNat 6 sel)) else none) ∧
    (op = 3 → (decode w).toInstr =
      if sel / 2 ^ 3 = 0 ∧ sel % 2 ^ 3 ≤ 5 ∧ data = 0 then (laneOfNumber (sel % 2 ^ 3)).map finishOfLane else none) ∧
    op ≤ 3

/-- 30_encoding.md R70: the five conditions of the reserved words, in bits of the word. -/
def Obligations.ReservedWordsByCase : Prop :=
  ∀ w : CmdWord,
    let op := w.extractLsb' 14 2
    let zeros := w.extractLsb' 11 3
    let idx := (w.extractLsb' 8 3).toNat
    let data := w.extractLsb' 0 8
    (decode w = .illegal .malformedNop ↔ op = 0b00#2 ∧ w.extractLsb' 0 14 ≠ 0#14) ∧
    (decode w = .illegal .malformedReset ↔ op = 0b10#2 ∧ data ≠ 0#8) ∧
    (decode w = .illegal .malformedFinish ↔ op = 0b11#2 ∧ zeros ≠ 0#3) ∧
    (decode w = .illegal .noSuchLane ↔ op = 0b11#2 ∧ zeros = 0#3 ∧ (idx = 6 ∨ idx = 7)) ∧
    (decode w = .illegal .finishWithData ↔ op = 0b11#2 ∧ zeros = 0#3 ∧ idx ≤ 5 ∧ data ≠ 0#8)

/-- 30_encoding.md R70: how many of the 65536 words are legal, by command, and how many are reserved, by case. The words are
listed by their fields `OP`, `SEL`, `DATA` (R61), each combination once. -/
def Obligations.WordCounts : Prop :=
  let words := (List.range 4).flatMap (fun op => (List.range 64).flatMap (fun sel => (List.range 256).map (fun data =>
    CmdWord.ofFields (BitVec.ofNat 2 op) (BitVec.ofNat 6 sel) (BitVec.ofNat 8 data))))
  let count := fun (d : Decoded → Bool) => words.countP (fun w => d (decode w))
  words.length = 65536 ∧ (∀ w : CmdWord, w ∈ words) ∧
  count (fun d => d == .command .nop) = 1 ∧
  count (fun d => match d with | .command (.write _ _) => true | _ => false) = 16384 ∧
  count (fun d => match d with | .command (.reset _) => true | _ => false) = 64 ∧
  count (fun d => d.toInstr.isSome) = 16455 ∧
  count (fun d => d.toInstr.isNone) = 49081 ∧
  count (fun d => d == .illegal .malformedNop) = 16383 ∧
  count (fun d => d == .illegal .malformedReset) = 16320 ∧
  count (fun d => d == .illegal .malformedFinish) = 14336 ∧
  count (fun d => d == .illegal .noSuchLane) = 512 ∧
  count (fun d => d == .illegal .finishWithData) = 1530

/-- 95_test_vectors.md section 2.7: words of every format and of every illegal case, written out, decode as the table says. -/
def Obligations.WrittenOutWordsDecode : Prop :=
  decode 0x0000#16 = .command .nop ∧
  decode 0x4a66#16 = .command (.write 0b001010#6 0x66#8) ∧
  decode 0x7fff#16 = .command (.write 0b111111#6 0xff#8) ∧
  decode 0x8200#16 = .command (.reset 0b000010#6) ∧
  decode 0xbf00#16 = .command (.reset 0b111111#6) ∧
  decode 0xc000#16 = .command .finishFnv1_32 ∧
  decode 0xc100#16 = .command .finishFnv1a_32 ∧
  decode 0xc200#16 = .command .finishFnv1_64 ∧
  decode 0xc300#16 = .command .finishFnv1a_64 ∧
  decode 0xc400#16 = .command .finishFnv1_128 ∧
  decode 0xc500#16 = .command .finishFnv1a_128 ∧
  decode 0x0001#16 = .illegal .malformedNop ∧
  decode 0x8001#16 = .illegal .malformedReset ∧
  decode 0xc800#16 = .illegal .malformedFinish ∧
  decode 0xc700#16 = .illegal .noSuchLane ∧
  decode 0xc101#16 = .illegal .finishWithData

/-- 30_encoding.md R77: assembling the line a word prints as gives the word back, for every word, legal or not. -/
def Obligations.AssemblingTheDisassemblyGivesTheWord : Prop :=
  ∀ w : CmdWord, assembleLine (disassemble w) = some [PortIn.command w]

/-- 30_encoding.md R76: the expansions of the pseudo-instructions, as the input tuples they present, for every form of `<lanes>`
and of `<lane>` (R74): a lane reference `r` is a lane name or `#n`, and `r.lane?` the lane it names. -/
def Obligations.PseudoInstructionExpansions : Prop :=
  AsmLine.new.tuples? = some [PortIn.command 0xbf00#16] ∧
  AsmLine.finishAll.tuples? =
    some [PortIn.command 0xc000#16, PortIn.command 0xc100#16, PortIn.command 0xc200#16, PortIn.command 0xc300#16,
      PortIn.command 0xc400#16, PortIn.command 0xc500#16] ∧
  (∀ (ls : LanesRef) (m : LaneMask) (bs : List Byte), ls.mask? = some m →
    (AsmLine.writeString ls (bs.map BitVec.toNat)).tuples? =
      some (bs.map (fun b => PortIn.command (encode (.write m b)))) ∧
    (AsmLine.writeBytes ls (bs.map BitVec.toNat)).tuples? =
      some (bs.map (fun b => PortIn.command (encode (.write m b))))) ∧
  (∀ (r : LaneRef) (l : Lane) (bs : List Byte), r.lane? = some l →
    (AsmLine.hash r (bs.map BitVec.toNat)).tuples? =
      some (PortIn.command (encode (.reset (maskOfLane l))) ::
        bs.map (fun b => PortIn.command (encode (.write (maskOfLane l) b))) ++
        [PortIn.command (encode (finishOfLane l))]))

/-! ### Datapath -/

/-- 40_datapath.md R80: the multiplier is the exact product with the prime modulo `2^W`, with the rule's corner cases and
examples. -/
def Obligations.MultiplierWrapsModulo : Prop :=
  (∀ x : BitVec 32, (mulPrime .w32 x).toNat = x.toNat * 16777619 % 2 ^ 32) ∧
  (∀ x : BitVec 64, (mulPrime .w64 x).toNat = x.toNat * 1099511628211 % 2 ^ 64) ∧
  (∀ x : BitVec 128, (mulPrime .w128 x).toNat = x.toNat * 309485009821345068724781371 % 2 ^ 128) ∧
  (∀ w : Width, mulPrime w 0 = 0 ∧ mulPrime w 1 = Config.prime w ∧
    (mulPrime w (BitVec.ofNat w.bits (2 ^ (w.bits - 1)))).toNat = 2 ^ (w.bits - 1)) ∧
  mulPrime .w32 0xffffffff#32 = 0xfefffe6d#32 ∧
  0x811c9dc5 * 0x01000193 = 0x811d69050c5d1f ∧
  mulPrime .w32 0x811c9dc5#32 = 0x050c5d1f#32 ∧
  mulPrime .w64 0xcbf29ce484222325#64 = 0xaf63bd4c8601b7df#64

/-- 40_datapath.md R88: the shift-and-add form of each multiplier, shifts cut to W bits and addition modulo `2^W`. -/
def Obligations.MultiplierIsShiftAndAdd : Prop :=
  (∀ x : BitVec 32, mulPrime .w32 x = x + (x <<< 1) + (x <<< 4) + (x <<< 7) + (x <<< 8) + (x <<< 24)) ∧
  (∀ x : BitVec 64, mulPrime .w64 x = x + (x <<< 1) + (x <<< 4) + (x <<< 5) + (x <<< 7) + (x <<< 8) + (x <<< 40)) ∧
  (∀ x : BitVec 128, mulPrime .w128 x = x + (x <<< 1) + (x <<< 3) + (x <<< 4) + (x <<< 5) + (x <<< 8) + (x <<< 88)) ∧
  (Config.prime .w32).toNat = 2 ^ 24 + 0x193 ∧ (Config.prime .w64).toNat = 2 ^ 40 + 0x1b3 ∧
  (Config.prime .w128).toNat = 2 ^ 88 + 0x13b ∧
  (∀ (w : Width) (x : BitVec w.bits), mulShiftAdd w x = mulPrime w x)

/-- 40_datapath.md R81: the byte is XORed into bits 7 to 0 and the bits above are unchanged; the rule's corner cases and
examples. -/
def Obligations.XorReduceTouchesTheLowByteOnly : Prop :=
  (∀ (w : Width) (x : BitVec w.bits) (b : Byte),
    (∀ k : Nat, k < 8 → (xorReduce w x b).getLsbD k = (x.getLsbD k != b.getLsbD k)) ∧
    (∀ k : Nat, 8 ≤ k → (xorReduce w x b).getLsbD k = x.getLsbD k) ∧
    xorReduce w x 0x00#8 = x ∧
    xorReduce w (xorReduce w x b) b = x) ∧
  xorReduce .w32 0x811c9dc5#32 0xff#8 = 0x811c9d3a#32 ∧
  xorReduce .w32 0x811c9dc5#32 0x61#8 = 0x811c9da4#32

/-- 40_datapath.md R83, R84, R85: the update of each lane from exact arithmetic, and the two examples. -/
def Obligations.LaneUpdateOrders : Prop :=
  (∀ (r : BitVec 32) (b : Byte),
    laneUpdate .fnv1_32 r b = BitVec.ofNat 32 (r.toNat * 16777619 % 2 ^ 32) ^^^ b.setWidth 32 ∧
    laneUpdate .fnv1a_32 r b = BitVec.ofNat 32 ((r ^^^ b.setWidth 32).toNat * 16777619 % 2 ^ 32)) ∧
  (∀ (r : BitVec 64) (b : Byte),
    laneUpdate .fnv1_64 r b = BitVec.ofNat 64 (r.toNat * 1099511628211 % 2 ^ 64) ^^^ b.setWidth 64 ∧
    laneUpdate .fnv1a_64 r b = BitVec.ofNat 64 ((r ^^^ b.setWidth 64).toNat * 1099511628211 % 2 ^ 64)) ∧
  (∀ (r : BitVec 128) (b : Byte),
    laneUpdate .fnv1_128 r b =
      BitVec.ofNat 128 (r.toNat * 309485009821345068724781371 % 2 ^ 128) ^^^ b.setWidth 128 ∧
    laneUpdate .fnv1a_128 r b =
      BitVec.ofNat 128 ((r ^^^ b.setWidth 128).toNat * 309485009821345068724781371 % 2 ^ 128)) ∧
  laneUpdate .fnv1_32 0x811c9dc5#32 0x61#8 = 0x050c5d7e#32 ∧
  laneUpdate .fnv1a_32 0x811c9dc5#32 0x61#8 = 0xe40c292c#32

/-- 40_datapath.md R87: the two orders agree on a zero byte, where both are the multiplier, and they do not commute: at every
width some register value and byte make them differ. -/
def Obligations.OrdersAgreeOnAZeroByteAndDoNotCommute : Prop :=
  ∀ w : Width,
    (∀ r : BitVec w.bits, updFnv1 w r 0x00#8 = mulPrime w r ∧ updFnv1a w r 0x00#8 = mulPrime w r) ∧
    (∃ (r : BitVec w.bits) (b : Byte), updFnv1 w r b ≠ updFnv1a w r b)

/-- Stronger than the "in general" of 40_datapath.md R87, from R80, R81, R83, R84: at every width the two orders differ from
every register value on every byte other than `0x00`. -/
def Obligations.OrdersDifferOnEveryNonzeroByte : Prop :=
  ∀ (w : Width) (r : BitVec w.bits) (b : Byte), b ≠ 0x00#8 → updFnv1 w r b ≠ updFnv1a w r b

/-- 40_datapath.md R91: for a fixed byte the update of every lane is a bijection; from 0, FNV-1 gives the byte and FNV-1a the
multiplied byte, which is 0 only for the zero byte. -/
def Obligations.LaneUpdateIsBijective : Prop :=
  (∀ (l : Lane) (b : Byte), Function.Bijective (fun r : BitVec l.bits => laneUpdate l r b)) ∧
  (∀ (w : Width) (b : Byte), updFnv1 w 0 b = b.setWidth w.bits) ∧
  (∀ (w : Width) (b : Byte), updFnv1a w 0 b = mulPrime w (b.setWidth w.bits)) ∧
  (∀ (w : Width) (b : Byte), updFnv1a w 0 b = 0 ↔ b = 0x00#8)

/-- 40_datapath.md R92: a narrower digest is not the low bits of a wider one: the hashes of the byte 0x61 on lanes 1 and 3. -/
def Obligations.NarrowDigestIsNotTheLowHalf : Prop :=
  hashOf .fnv1a_64 [0x61#8] = 0xaf63dc4c8601ec8c#64 ∧
  (0xaf63dc4c8601ec8c#64).setWidth 32 = 0x8601ec8c#32 ∧
  hashOf .fnv1a_32 [0x61#8] = 0xe40c292c#32 ∧
  (hashOf .fnv1a_64 [0x61#8]).setWidth 32 ≠ hashOf .fnv1a_32 [0x61#8]

/-- 41_write.md R112, with 40_datapath.md R87: on any number of zero bytes the two variants of a width agree; among the one-byte
inputs they agree on the zero byte only. -/
def Obligations.VariantsAgreeOnZeroBytes : Prop :=
  (∀ n : Nat,
    hashOf .fnv1_32 (List.replicate n 0x00#8) = hashOf .fnv1a_32 (List.replicate n 0x00#8) ∧
    hashOf .fnv1_64 (List.replicate n 0x00#8) = hashOf .fnv1a_64 (List.replicate n 0x00#8) ∧
    hashOf .fnv1_128 (List.replicate n 0x00#8) = hashOf .fnv1a_128 (List.replicate n 0x00#8)) ∧
  (∀ b : Byte,
    (hashOf .fnv1_32 [b] = hashOf .fnv1a_32 [b] ↔ b = 0x00#8) ∧
    (hashOf .fnv1_64 [b] = hashOf .fnv1a_64 [b] ↔ b = 0x00#8) ∧
    (hashOf .fnv1_128 [b] = hashOf .fnv1a_128 [b] ↔ b = 0x00#8))

/-! ### WRITE -/

/-- 41_write.md R100, R107: WRITE completes in every state for every mask and byte: each selected lane is updated from its value
at the start of the step, every other lane keeps its value, the outputs are (0, 0, 0), no fault is recorded, and the tuples to
come are left alone. Its word is 0x4000 + 256 m + b; the rule's example. -/
def Obligations.WriteUpdatesTheSelectedLanes : Prop :=
  (∀ (m : LaneMask) (b : Byte), decode (BitVec.ofNat 16 (0x4000 + 256 * m.toNat + b.toNat)) = .command (.write m b)) ∧
  (∃ t : State, step (State.reset.present (PortIn.command 0x7f61#16)) = .next t ∧
    t.regs = {
      d0 := 0x050c5d7e#32
      d1 := 0xe40c292c#32
      d2 := 0xaf63bd4c8601b7be#64
      d3 := 0xaf63dc4c8601ec8c#64
      d4 := 0xd228cb69101a8caf78912b704e4a141e#128
      d5 := 0xd228cb696f1a8caf78912b704e4a8964#128 }) ∧
  ∀ (m : LaneMask) (b : Byte) (s : State), ∃ t : State, exec (.write m b) s = .next t ∧
    (∀ l : Lane, t.regs.read l = if m.getLsbD (laneNumber l) then laneUpdate l (s.regs.read l) b else s.regs.read l) ∧
    t.observed = s.observed ++ [{ rspValid := false, rspData := 0, cmdErr := false }] ∧
    t.faults = s.faults ∧ t.inputs = s.inputs

/-- 41_write.md R101, R103, R105: what a WRITE does to the three FNV-1 registers, multiply then XOR, with the corner cases and
the examples of the rules. -/
def Obligations.WriteOnFnv1Lanes : Prop :=
  (∀ (m : LaneMask) (b : Byte) (s : State), ∃ t : State, exec (.write m b) s = .next t ∧ t.faults = s.faults ∧
    (m.getLsbD 0 = true →
      t.regs.d0 = BitVec.ofNat 32 (s.regs.d0.toNat * 16777619 % 2 ^ 32) ^^^ b.setWidth 32 ∧
      (b = 0x00#8 → t.regs.d0 = mulPrime .w32 s.regs.d0) ∧ (s.regs.d0 = 0 → t.regs.d0 = b.setWidth 32)) ∧
    (m.getLsbD 2 = true →
      t.regs.d2 = BitVec.ofNat 64 (s.regs.d2.toNat * 1099511628211 % 2 ^ 64) ^^^ b.setWidth 64 ∧
      (b = 0x00#8 → t.regs.d2 = mulPrime .w64 s.regs.d2) ∧ (s.regs.d2 = 0 → t.regs.d2 = b.setWidth 64)) ∧
    (m.getLsbD 4 = true →
      t.regs.d4 = BitVec.ofNat 128 (s.regs.d4.toNat * 309485009821345068724781371 % 2 ^ 128) ^^^ b.setWidth 128 ∧
      (b = 0x00#8 → t.regs.d4 = mulPrime .w128 s.regs.d4) ∧ (s.regs.d4 = 0 → t.regs.d4 = b.setWidth 128))) ∧
  (∃ t : State, exec (.write 0b010101#6 0x61#8) State.reset = .next t ∧ t.regs.d0 = 0x050c5d7e#32 ∧
    t.regs.d2 = 0xaf63bd4c8601b7be#64 ∧ t.regs.d4 = 0xd228cb69101a8caf78912b704e4a141e#128)

/-- 41_write.md R102, R104, R106: what a WRITE does to the three FNV-1a registers, XOR then multiply, with the corner cases and
the examples of the rules. -/
def Obligations.WriteOnFnv1aLanes : Prop :=
  (∀ (m : LaneMask) (b : Byte) (s : State), ∃ t : State, exec (.write m b) s = .next t ∧ t.faults = s.faults ∧
    (m.getLsbD 1 = true →
      t.regs.d1 = BitVec.ofNat 32 ((s.regs.d1 ^^^ b.setWidth 32).toNat * 16777619 % 2 ^ 32) ∧
      (b = 0x00#8 → t.regs.d1 = mulPrime .w32 s.regs.d1) ∧
      (s.regs.d1 = 0 → t.regs.d1 = mulPrime .w32 (b.setWidth 32) ∧ (t.regs.d1 = 0 ↔ b = 0x00#8))) ∧
    (m.getLsbD 3 = true →
      t.regs.d3 = BitVec.ofNat 64 ((s.regs.d3 ^^^ b.setWidth 64).toNat * 1099511628211 % 2 ^ 64) ∧
      (b = 0x00#8 → t.regs.d3 = mulPrime .w64 s.regs.d3) ∧
      (s.regs.d3 = 0 → t.regs.d3 = mulPrime .w64 (b.setWidth 64) ∧ (t.regs.d3 = 0 ↔ b = 0x00#8))) ∧
    (m.getLsbD 5 = true →
      t.regs.d5 = BitVec.ofNat 128 ((s.regs.d5 ^^^ b.setWidth 128).toNat * 309485009821345068724781371 % 2 ^ 128) ∧
      (b = 0x00#8 → t.regs.d5 = mulPrime .w128 s.regs.d5) ∧
      (s.regs.d5 = 0 → t.regs.d5 = mulPrime .w128 (b.setWidth 128) ∧ (t.regs.d5 = 0 ↔ b = 0x00#8)))) ∧
  (∃ t : State, exec (.write 0b101010#6 0x61#8) State.reset = .next t ∧ t.regs.d1 = 0xe40c292c#32 ∧
    t.regs.d3 = 0xaf63dc4c8601ec8c#64 ∧ t.regs.d5 = 0xd228cb696f1a8caf78912b704e4a8964#128)

/-- 41_write.md R108: WRITE with the empty mask, the words 0x4000 to 0x40ff, is legal and does what NOP does. -/
def Obligations.WriteToNoLaneIsNop : Prop :=
  ∀ (b : Byte) (s : State),
    decode (0x4000#16 + b.setWidth 16) = .command (.write 0#6 b) ∧
    step (s.present (PortIn.command (0x4000#16 + b.setWidth 16))) = step (s.present (PortIn.command 0x0000#16)) ∧
    exec (.write 0#6 b) s =
      .next { s with observed := s.observed ++ [{ rspValid := false, rspData := 0, cmdErr := false }] }

/-- 41_write.md R114: WRITE(m, b) has the effect on the registers of the single-lane WRITEs of the lanes it selects, performed
one after another in any order. -/
def Obligations.BroadcastIsSeparateWritesInAnyOrder : Prop :=
  ∀ (m : LaneMask) (b : Byte) (s : State) (ls : List Lane),
    ls.Nodup → (∀ l : Lane, l ∈ ls ↔ m.getLsbD (laneNumber l) = true) →
    ∃ t u : State, exec (.write m b) s = .next t ∧
      run ls.length
          { s with inputs := ls.map (fun l => PortIn.command (encode (.write (1#6 <<< laneNumber l) b))) } = .next u ∧
      u.regs = t.regs

/-! ### FINISH -/

/-- 42_finish.md R121, R122: FINISH of the 32-bit lanes: the word, the response bits, and that nothing else changes. -/
def Obligations.FinishOf32BitLanes : Prop :=
  decode 0xc000#16 = .command .finishFnv1_32 ∧ decode 0xc100#16 = .command .finishFnv1a_32 ∧
  ∀ s : State,
    (∃ o : PortOut, exec .finishFnv1_32 s = .next { s with observed := s.observed ++ [o] } ∧ o.rspValid = true ∧
      o.rspData.extractLsb' 0 32 = s.regs.d0 ∧ o.rspData.extractLsb' 32 96 = 0 ∧ o.cmdErr = false) ∧
    (∃ o : PortOut, exec .finishFnv1a_32 s = .next { s with observed := s.observed ++ [o] } ∧ o.rspValid = true ∧
      o.rspData.extractLsb' 0 32 = s.regs.d1 ∧ o.rspData.extractLsb' 32 96 = 0 ∧ o.cmdErr = false)

/-- 42_finish.md R123, R124: FINISH of the 64-bit lanes: the word, the response bits, and that nothing else changes. -/
def Obligations.FinishOf64BitLanes : Prop :=
  decode 0xc200#16 = .command .finishFnv1_64 ∧ decode 0xc300#16 = .command .finishFnv1a_64 ∧
  ∀ s : State,
    (∃ o : PortOut, exec .finishFnv1_64 s = .next { s with observed := s.observed ++ [o] } ∧ o.rspValid = true ∧
      o.rspData.extractLsb' 0 64 = s.regs.d2 ∧ o.rspData.extractLsb' 64 64 = 0 ∧ o.cmdErr = false) ∧
    (∃ o : PortOut, exec .finishFnv1a_64 s = .next { s with observed := s.observed ++ [o] } ∧ o.rspValid = true ∧
      o.rspData.extractLsb' 0 64 = s.regs.d3 ∧ o.rspData.extractLsb' 64 64 = 0 ∧ o.cmdErr = false)

/-- 42_finish.md R125, R126: FINISH of the 128-bit lanes: the word, the response, and that nothing else changes. -/
def Obligations.FinishOf128BitLanes : Prop :=
  decode 0xc400#16 = .command .finishFnv1_128 ∧ decode 0xc500#16 = .command .finishFnv1a_128 ∧
  ∀ s : State,
    exec .finishFnv1_128 s =
      .next { s with observed := s.observed ++ [{ rspValid := true, rspData := s.regs.d4, cmdErr := false }] } ∧
    exec .finishFnv1a_128 s =
      .next { s with observed := s.observed ++ [{ rspValid := true, rspData := s.regs.d5, cmdErr := false }] }

/-- 42_finish.md R127: FINISH leaves the six registers, and two FINISHes of a lane with nothing between them that writes or
restarts the lane return the same value. -/
def Obligations.FinishIsReadOnlyAndRepeatable : Prop :=
  ∀ (l : Lane) (s : State) (ps : List PortIn),
    (∀ p ∈ ps, p.writes l = none ∧ p.restarts l = false) →
    s.inputs = PortIn.command (encode (finishOfLane l)) :: ps ++ [PortIn.command (encode (finishOfLane l))] →
    ∃ (t u : State) (os : List PortOut) (o : PortOut), step s = .next t ∧ t.regs = s.regs ∧
      run (ps.length + 2) s = .next u ∧ o.rspValid = true ∧ os.length = ps.length ∧
      u.observed = s.observed ++ [o] ++ os ++ [o]

/-- 42_finish.md R128: in the reset state FINISH returns the offset basis, for every variant of the width. -/
def Obligations.FinishAfterResetReturnsTheOffsetBasis : Prop :=
  ∀ s : State, s.regs = DigestFile.reset →
    let answers := fun (w : CmdWord) (v : RspData) =>
      step (s.present (PortIn.command w)) =
        .next { s with observed := s.observed ++ [{ rspValid := true, rspData := v, cmdErr := false }] }
    answers 0xc000#16 0x811c9dc5#128 ∧ answers 0xc100#16 0x811c9dc5#128 ∧
    answers 0xc200#16 0xcbf29ce484222325#128 ∧ answers 0xc300#16 0xcbf29ce484222325#128 ∧
    answers 0xc400#16 0x6c62272e07bb014262b821756295c58d#128 ∧
    answers 0xc500#16 0x6c62272e07bb014262b821756295c58d#128

/-- 42_finish.md R129, 00_scope.md R11: `rsp_valid` is 1 exactly in a step that performs a FINISH; in every other step
`rsp_valid` and all of `rsp_data` are 0. -/
def Obligations.ResponseExactlyOnFinish : Prop :=
  ∀ (s : State) (p : PortIn), ∃ (t : State) (o : PortOut), step (s.present p) = .next t ∧
    t.observed = s.observed ++ [o] ∧
    (∀ l : Lane, p.performs = some (finishOfLane l) → o.rspValid = true ∧ o.rspData = (s.regs.read l).setWidth 128) ∧
    ((∀ l : Lane, p.performs ≠ some (finishOfLane l)) → o.rspValid = false ∧ o.rspData = 0)

/-! ### RESET, NOP, the idle step -/

/-- 43_reset_nop.md R140: RESET completes in every state for every mask: selected lanes hold their offset basis, the others keep
their value, the outputs are (0, 0, 0); the empty mask changes nothing, nor does a RESET of a lane
already at its offset basis; a second RESET changes nothing more. Its word is 0x8000 + 256 m, and a word with `OP = 10` and a
non-zero `DATA` is illegal. -/
def Obligations.ResetRestoresTheSelectedLanes : Prop :=
  (∀ m : LaneMask, decode (BitVec.ofNat 16 (0x8000 + 256 * m.toNat)) = .command (.reset m)) ∧
  (∀ w : CmdWord, w.toNat / 2 ^ 14 = 2 → w.toNat % 2 ^ 8 ≠ 0 → decode w = .illegal .malformedReset) ∧
  ∀ (m : LaneMask) (s : State), ∃ t : State, exec (.reset m) s = .next t ∧
    t.regs.d0 = (if m.getLsbD 0 then 0x811c9dc5#32 else s.regs.d0) ∧
    t.regs.d1 = (if m.getLsbD 1 then 0x811c9dc5#32 else s.regs.d1) ∧
    t.regs.d2 = (if m.getLsbD 2 then 0xcbf29ce484222325#64 else s.regs.d2) ∧
    t.regs.d3 = (if m.getLsbD 3 then 0xcbf29ce484222325#64 else s.regs.d3) ∧
    t.regs.d4 = (if m.getLsbD 4 then 0x6c62272e07bb014262b821756295c58d#128 else s.regs.d4) ∧
    t.regs.d5 = (if m.getLsbD 5 then 0x6c62272e07bb014262b821756295c58d#128 else s.regs.d5) ∧
    t.observed = s.observed ++ [{ rspValid := false, rspData := 0, cmdErr := false }] ∧
    t.faults = s.faults ∧ t.inputs = s.inputs ∧
    (m = 0#6 → t.regs = s.regs) ∧
    (∀ l : Lane, s.regs.read l = offsetBasis l → t.regs.read l = s.regs.read l) ∧
    (∃ u : State, exec (.reset m) t = .next u ∧ u.regs = t.regs)

/-- 43_reset_nop.md R141: `reset all`, the word 0xbf00, has the effect of a hardware reset step. -/
def Obligations.ResetAllIsHardwareReset : Prop :=
  ∀ s : State, step (s.present (PortIn.command 0xbf00#16)) = step (s.present PortIn.hwreset) ∧
    exec (.reset 0b111111#6) s = .next (hardwareReset s)

/-- 43_reset_nop.md R142: NOP leaves the state and drives all three outputs to 0. Its word is 0x0000, and a word with `OP = 00`
and any other bit set is illegal. -/
def Obligations.NopLeavesTheState : Prop :=
  decode 0x0000#16 = .command .nop ∧
  (∀ w : CmdWord, w.toNat / 2 ^ 14 = 0 → w ≠ 0x0000#16 → decode w = .illegal .malformedNop) ∧
  ∀ s : State,
    exec .nop s = .next { s with observed := s.observed ++ [{ rspValid := false, rspData := 0, cmdErr := false }] }

/-- 43_reset_nop.md R143 and 30_encoding.md R73: an idle step writes no register and drives the outputs to 0, whatever is on
`cmd`; its effect is NOP's. -/
def Obligations.IdleStepIgnoresTheCommand : Prop :=
  ∀ (s : State) (p : PortIn), p.rst = false → p.cmdValid = false →
    step (s.present p) =
      .next { s with observed := s.observed ++ [{ rspValid := false, rspData := 0, cmdErr := false }] } ∧
    step (s.present p) = exec .nop s

/-- The model's choice, assumption log 1: where the host has listed no more tuples the step is an idle step
(43_reset_nop.md R143). -/
def Obligations.StepWithNothingListedIsIdle : Prop :=
  ∀ s : State, s.inputs = [] →
    step s = .next { s with observed := s.observed ++ [{ rspValid := false, rspData := 0, cmdErr := false }] }

/-! ### The step -/

/-- 00_scope.md R10, R12: where the next tuple is a valid command word that decodes to `i`, the step is `exec i` with the tuple
taken from the list, and nothing more. -/
def Obligations.StepRunsTheDecodedCommand : Prop :=
  ∀ (s : State) (p : PortIn) (rest : List PortIn) (i : Instr),
    s.inputs = p :: rest → p.rst = false → p.cmdValid = true → decode p.cmd = .command i →
    step s = exec i { s with inputs := rest }

/-- 00_scope.md R12 and 60_exceptions.md R154: the whole step function, in its order of priority: the next registers and the
output tuple for every state and every input tuple. -/
def Obligations.StepFunction : Prop :=
  ∀ (s : State) (p : PortIn), ∃ (t : State) (o : PortOut),
    step (s.present p) = .next t ∧ t.inputs = s.inputs ∧ t.observed = s.observed ++ [o] ∧
    (p.rst = true → (∀ l, t.regs.read l = offsetBasis l) ∧ o = PortOut.mk false 0 false) ∧
    (p.rst = false → p.cmdValid = false → t.regs = s.regs ∧ o = PortOut.mk false 0 false) ∧
    (p.rst = false → p.cmdValid = true →
      match decode p.cmd with
      | .command .nop => t.regs = s.regs ∧ o = PortOut.mk false 0 false
      | .command (.write m b) =>
        (∀ l, t.regs.read l = if m.getLsbD (laneNumber l) then laneUpdate l (s.regs.read l) b else s.regs.read l) ∧
          o = PortOut.mk false 0 false
      | .command (.reset m) =>
        (∀ l, t.regs.read l = if m.getLsbD (laneNumber l) then offsetBasis l else s.regs.read l) ∧
          o = PortOut.mk false 0 false
      | .command .finishFnv1_32 => t.regs = s.regs ∧ o = PortOut.mk true (s.regs.d0.setWidth 128) false
      | .command .finishFnv1a_32 => t.regs = s.regs ∧ o = PortOut.mk true (s.regs.d1.setWidth 128) false
      | .command .finishFnv1_64 => t.regs = s.regs ∧ o = PortOut.mk true (s.regs.d2.setWidth 128) false
      | .command .finishFnv1a_64 => t.regs = s.regs ∧ o = PortOut.mk true (s.regs.d3.setWidth 128) false
      | .command .finishFnv1_128 => t.regs = s.regs ∧ o = PortOut.mk true s.regs.d4 false
      | .command .finishFnv1a_128 => t.regs = s.regs ∧ o = PortOut.mk true s.regs.d5 false
      | .illegal _ => t.regs = s.regs ∧ o = PortOut.mk false 0 true)

/-- 70_reset_and_hazards.md R181, 00_scope.md R12: every step completes: it answers a next state from every state, takes one
tuple and drives one. -/
def Obligations.EveryStepCompletes : Prop :=
  ∀ s : State, ∃ (t : State) (o : PortOut), step s = .next t ∧ t.inputs = s.inputs.tail ∧
    t.observed = s.observed ++ [o]

/-- 60_exceptions.md R150: every command completes in every state and no command faults: no fault is recorded and `cmd_err`
is 0. -/
def Obligations.NoLegalCommandFaults : Prop :=
  ∀ (i : Instr) (s : State), ∃ (t : State) (o : PortOut), exec i s = .next t ∧ t.faults = s.faults ∧
    t.observed = s.observed ++ [o] ∧ o.cmdErr = false

/-- 60_exceptions.md R152: an IllegalCommand step writes no register, drives (0, 0, 1) and is recorded; in every step that is
not one `cmd_err` is 0 and nothing is recorded. Which words are reserved is read from the opcode table. -/
def Obligations.IllegalCommandStep : Prop :=
  (∀ (s : State) (w : CmdWord), CmdWord.wellFormed w = false →
    step (s.present { rst := false, cmdValid := true, cmd := w }) =
      .next { s with
        observed := s.observed ++ [{ rspValid := false, rspData := 0, cmdErr := true }]
        faults := s.faults ++ [.illegalCommand w] }) ∧
  (∀ (s : State) (p : PortIn), ∃ (t : State) (o : PortOut), step (s.present p) = .next t ∧
    t.observed = s.observed ++ [o] ∧ o.cmdErr = p.illegal ∧ (p.illegal = false → t.faults = s.faults))

/-- 60_exceptions.md R156: the step after an IllegalCommand step is an ordinary step from the unchanged registers, and two
reserved words in two successive steps raise `cmd_err` in both and change nothing. -/
def Obligations.StepAfterIllegalCommandIsOrdinary : Prop :=
  ∀ (s : State) (w : CmdWord), CmdWord.wellFormed w = false →
    (∀ p : PortIn, ∃ t u v : State, step ((s.present p).present (PortIn.command w)) = .next t ∧
      step t = .next u ∧ step (s.present p) = .next v ∧ t.regs = s.regs ∧ u.regs = v.regs ∧ u.inputs = v.inputs ∧
      ∃ o : PortOut, u.observed = t.observed ++ [o] ∧ v.observed = s.observed ++ [o]) ∧
    (∀ w' : CmdWord, CmdWord.wellFormed w' = false →
      ∃ u : State, run 2 ((s.present (PortIn.command w')).present (PortIn.command w)) = .next u ∧
        u.regs = s.regs ∧
        u.observed = s.observed ++ [PortOut.mk false 0 true, PortOut.mk false 0 true] ∧
        u.faults = s.faults ++ [.illegalCommand w, .illegalCommand w'])

/-! ### Reset and boot -/

/-- 70_reset_and_hazards.md R170, R171, R172: in a step with `rst = 1` every lane is constructed and the outputs are 0, whatever
the state, `cmd_valid` and `cmd` are: a command presented with it is lost and raises no error; a second such step changes no
register. -/
def Obligations.HardwareResetConstructsEveryLane : Prop :=
  ∀ (s : State) (p : PortIn), p.rst = true → ∃ t : State, step (s.present p) = .next t ∧
    t.regs = {
      d0 := 0x811c9dc5#32
      d1 := 0x811c9dc5#32
      d2 := 0xcbf29ce484222325#64
      d3 := 0xcbf29ce484222325#64
      d4 := 0x6c62272e07bb014262b821756295c58d#128
      d5 := 0x6c62272e07bb014262b821756295c58d#128 } ∧
    t.observed = s.observed ++ [{ rspValid := false, rspData := 0, cmdErr := false }] ∧
    t.faults = s.faults ∧ t.inputs = s.inputs ∧
    (∀ q : PortIn, q.rst = true → ∃ u : State, step (t.present q) = .next u ∧ u.regs = t.regs)

/-- 10_state.md R21 to R26, 70_reset_and_hazards.md R173: the registers of `State.reset`. That nothing is listed, observed or
recorded there is the model's choice (assumption log 1, 2, 3). -/
def Obligations.ResetStateRegisters : Prop :=
  State.reset.regs.d0.toNat = 2166136261 ∧ State.reset.regs.d1.toNat = 2166136261 ∧
  State.reset.regs.d2.toNat = 14695981039346656037 ∧ State.reset.regs.d3.toNat = 14695981039346656037 ∧
  State.reset.regs.d4.toNat = 144066263297769815596495629667062367629 ∧
  State.reset.regs.d5.toNat = 144066263297769815596495629667062367629 ∧
  State.reset.inputs = [] ∧ State.reset.observed = [] ∧ State.reset.faults = []

/-- 70_reset_and_hazards.md R174, 10_state.md R35: whatever the registers hold at power-on, a host that keeps its duty finds them
at the reset state when it presents its first command. -/
def Obligations.BootDutyReachesTheResetState : Prop :=
  ∀ (s : State) (before after : List PortIn) (p : PortIn),
    s.inputs = before ++ p :: after → (∀ q ∈ before, q.cmdValid = false) → p.cmdValid = true →
    bootDuty s.inputs = true →
    ∃ t : State, run before.length s = .next t ∧ t.regs = DigestFile.reset ∧ t.inputs = p :: after ∧
      t.faults = s.faults

/-! ### Sequences of steps -/

/-- 41_write.md R109, 20_memory.md R48: over any sequence of tuples none of which restarts lane `l`, the lane's register becomes
the fold of the bytes written to that lane, in step order; whatever else the tuples do makes no difference. And folding two
sequences one after the other is folding their concatenation. -/
def Obligations.IncrementalEquivalence : Prop :=
  (∀ (l : Lane) (ps rest : List PortIn) (s : State), s.inputs = ps ++ rest → (∀ p ∈ ps, p.restarts l = false) →
    ∃ t : State, run ps.length s = .next t ∧ t.inputs = rest ∧
      t.regs.read l = foldBytes l (s.regs.read l) (bytesTo l ps)) ∧
  (∀ (l : Lane) (r : BitVec l.bits) (a b : List Byte), foldBytes l r (a ++ b) = foldBytes l (foldBytes l r a) b)

/-- 40_datapath.md R89, 41_write.md R110, 30_encoding.md R76: the pseudo-instruction `hash` of a lane and a byte sequence returns
`hash_i(S)` in its last step, from every state: it depends on the lane and the bytes alone. The lane stands as its name or as
`#n` (R74). -/
def Obligations.HashReturnsTheHashFromAnyState : Prop :=
  ∀ (r : LaneRef) (l : Lane) (bs : List Byte) (s : State) (ps : List PortIn), r.lane? = some l →
    (AsmLine.hash r (bs.map BitVec.toNat)).tuples? = some ps → s.inputs = ps →
    ∃ t : State, run (bs.length + 2) s = .next t ∧ t.regs.read l = hashOf l bs ∧ t.faults = s.faults ∧
      t.observed = s.observed ++ List.replicate (bs.length + 1) (PortOut.mk false 0 false) ++
        [PortOut.mk true ((hashOf l bs).setWidth 128) false]

/-- 10_state.md R27 (f), 20_memory.md R48: lanes do not interact. Two states that agree on one lane's register and on the tuples
to come agree on both after a step, and where the step finishes that lane they drive the same output tuple, whatever the other
five registers hold. -/
def Obligations.LaneSeesOnlyItsOwnRegister : Prop :=
  ∀ (l : Lane) (s s' : State), s.inputs = s'.inputs → s.regs.read l = s'.regs.read l →
    ∃ (t t' : State) (o o' : PortOut), step s = .next t ∧ step s' = .next t' ∧ t.inputs = t'.inputs ∧
      t.regs.read l = t'.regs.read l ∧ t.observed = s.observed ++ [o] ∧ t'.observed = s'.observed ++ [o'] ∧
      (s.nextInput.performs = some (finishOfLane l) → o = o')

/-- 00_scope.md R13: a run over an infinite sequence of tuples has no halt: from every start state it answers a next state after
every number of steps. Its observation is one output tuple for every step, in order; and the output of a step depends on the
tuples up to it alone. -/
def Obligations.InfiniteRunNeverHalts : Prop :=
  ∀ (ps : Nat → PortIn) (s : State) (n : Nat),
    (∃ (t : State) (os : List PortOut), stateAfter ps s n = .next t ∧ t.observed = s.observed ++ os ∧
      os.map some = (List.range n).map (observationAt ps s)) ∧
    (∀ qs : Nat → PortIn, (∀ k : Nat, k ≤ n → ps k = qs k) → observationAt ps s n = observationAt qs s n)

/-- 00_scope.md R13: the first `n` steps of an infinite run are the finite run over its first `n` tuples: the same registers,
observation and faults. -/
def Obligations.FinitePartsOfInfiniteRuns : Prop :=
  ∀ (ps : Nat → PortIn) (s : State) (n : Nat), ∃ t u : State,
    stateAfter ps s n = .next t ∧ run n { s with inputs := (List.range n).map ps } = .next u ∧
    t.regs = u.regs ∧ t.observed = u.observed ∧ t.faults = u.faults ∧ t.inputs = s.inputs ∧ u.inputs = []

/-! ### Invariants -/

/-- Every step keeps the record lawful: no data without a response (42_finish.md R129), no response with an error, every recorded
fault a reserved word, and as many faults as `cmd_err` pulses (60_exceptions.md R151, R152). -/
def Obligations.StepKeepsTheRecordLawful : Prop :=
  ∀ s t : State, s.recordLawful = true → step s = .next t → t.recordLawful = true

/-- The record is lawful at reset. -/
def Obligations.RecordLawfulAtReset : Prop :=
  State.reset.recordLawful = true

/-- 10_state.md R27 (d), 40_datapath.md R89: what a step does to a register that holds the hash of the bytes `bs`. It holds the
hash of the empty sequence after a tuple that restarts the lane, the hash of `bs` and then the byte after one that writes a byte
to it, and the hash of `bs` after every other; and so over any sequence of tuples, one after the other. -/
def Obligations.StepExtendsTheHashedBytes : Prop :=
  (∀ (l : Lane) (bs : List Byte) (s : State) (p : PortIn), s.regs.read l = hashOf l bs →
    ∃ t : State, step (s.present p) = .next t ∧
      t.regs.read l = hashOf l (if p.restarts l then [] else bs ++ (p.writes l).toList)) ∧
  (∀ (l : Lane) (bs : List Byte) (ps rest : List PortIn) (s : State), s.inputs = ps ++ rest → s.regs.read l = hashOf l bs →
    ∃ t : State, run ps.length s = .next t ∧ t.inputs = rest ∧ t.regs.read l = hashOf l (ps.foldl (bytesSinceRestart l) bs))

/-- At reset every register is the hash of the empty sequence (40_datapath.md R89), and the two lanes of a width are equal
(41_write.md R111). -/
def Obligations.RegistersAreDigestsAtReset : Prop :=
  (∀ l : Lane, State.reset.regs.read l = hashOf l []) ∧
  State.reset.regs.d0 = State.reset.regs.d1 ∧ State.reset.regs.d2 = State.reset.regs.d3 ∧
  State.reset.regs.d4 = State.reset.regs.d5
end

