-- ==== Sys2Proof/Laws/Decode.lean ====
section
/-! SUPPORT. The fields of a command word and of an assembled one. -/

namespace Sys2Proof

@[simp] theorem op_ofFields (o : BitVec 2) (m : LaneMask) (b : Byte) : (CmdWord.ofFields o m b).op = o := by
  ext k hk
  simp only [CmdWord.op, CmdWord.ofFields, BitVec.getElem_extractLsb', BitVec.getLsbD_append]
  have h8 : ¬ 14 + k < 8 := by omega
  have h6 : ¬ 14 + k - 8 < 6 := by omega
  have hk' : 14 + k - 8 - 6 = k := by omega
  simp [h8, h6, hk', hk]

@[simp] theorem sel_ofFields (o : BitVec 2) (m : LaneMask) (b : Byte) : (CmdWord.ofFields o m b).sel = m := by
  ext k hk
  simp only [CmdWord.sel, CmdWord.ofFields, BitVec.getElem_extractLsb', BitVec.getLsbD_append]
  have h8 : ¬ 8 + k < 8 := by omega
  have hk' : 8 + k - 8 = k := by omega
  simp [h8, hk', hk]

@[simp] theorem data_ofFields (o : BitVec 2) (m : LaneMask) (b : Byte) : (CmdWord.ofFields o m b).data = b := by
  ext k hk
  simp only [CmdWord.data, CmdWord.ofFields, BitVec.getElem_extractLsb', BitVec.getLsbD_append]
  simp [hk]

@[simp] theorem toInstr_command (i : Instr) : (Decoded.command i).toInstr = some i := rfl

@[simp] theorem toInstr_illegal (c : IllegalCase) : (Decoded.illegal c).toInstr = none := rfl

/-- A word is the word of its three fields (R61). -/
theorem ofFields_fields (w : CmdWord) : CmdWord.ofFields w.op w.sel w.data = w := by
  apply BitVec.eq_of_getLsbD_eq
  intro k hk
  simp only [CmdWord.ofFields, CmdWord.op, CmdWord.sel, CmdWord.data, BitVec.getLsbD_append,
    BitVec.getLsbD_extractLsb']
  split_ifs with h8 h6
  · simp [h8]
  · simp [h6, show 8 + (k - 8) = k by omega]
  · simp [show k - 8 - 6 < 2 by omega, show 14 + (k - 8 - 6) = k by omega]

end Sys2Proof
end

