-- ==== Sys2Proof/Laws/State.lean ====
section
/-! SUPPORT. One lemma per field per update of the state, so that no later proof unfolds a record update. -/

namespace Sys2Proof.Machine

variable (s : State) (r : DigestFile) (o : PortOut) (f : Fault) (p : PortIn) (l : Lane) (w : CmdWord)

@[simp] theorem withRegs_regs : (s.withRegs r).regs = r := rfl
@[simp] theorem withRegs_inputs : (s.withRegs r).inputs = s.inputs := rfl
@[simp] theorem withRegs_observed : (s.withRegs r).observed = s.observed := rfl
@[simp] theorem withRegs_faults : (s.withRegs r).faults = s.faults := rfl

@[simp] theorem drive_regs : (s.drive o).regs = s.regs := rfl
@[simp] theorem drive_inputs : (s.drive o).inputs = s.inputs := rfl
@[simp] theorem drive_observed : (s.drive o).observed = s.observed ++ [o] := rfl
@[simp] theorem drive_faults : (s.drive o).faults = s.faults := rfl

@[simp] theorem record_regs : (s.record f).regs = s.regs := rfl
@[simp] theorem record_inputs : (s.record f).inputs = s.inputs := rfl
@[simp] theorem record_observed : (s.record f).observed = s.observed := rfl
@[simp] theorem record_faults : (s.record f).faults = s.faults ++ [f] := rfl

@[simp] theorem takeInput_regs : s.takeInput.regs = s.regs := rfl
@[simp] theorem takeInput_inputs : s.takeInput.inputs = s.inputs.tail := rfl
@[simp] theorem takeInput_observed : s.takeInput.observed = s.observed := rfl
@[simp] theorem takeInput_faults : s.takeInput.faults = s.faults := rfl

@[simp] theorem present_regs : (s.present p).regs = s.regs := rfl
@[simp] theorem present_inputs : (s.present p).inputs = p :: s.inputs := rfl
@[simp] theorem present_observed : (s.present p).observed = s.observed := rfl
@[simp] theorem present_faults : (s.present p).faults = s.faults := rfl

@[simp] theorem finish_regs : (s.finish l).regs = s.regs := rfl
@[simp] theorem finish_inputs : (s.finish l).inputs = s.inputs := rfl
@[simp] theorem finish_observed :
    (s.finish l).observed = s.observed ++ [PortOut.response (s.regs.read l)] := rfl
@[simp] theorem finish_faults : (s.finish l).faults = s.faults := rfl

@[simp] theorem hardwareReset_regs : (hardwareReset s).regs = DigestFile.reset := rfl
@[simp] theorem hardwareReset_inputs : (hardwareReset s).inputs = s.inputs := rfl
@[simp] theorem hardwareReset_observed : (hardwareReset s).observed = s.observed ++ [PortOut.quiet] := rfl
@[simp] theorem hardwareReset_faults : (hardwareReset s).faults = s.faults := rfl

@[simp] theorem idleStep_regs : (idleStep s).regs = s.regs := rfl
@[simp] theorem idleStep_inputs : (idleStep s).inputs = s.inputs := rfl
@[simp] theorem idleStep_observed : (idleStep s).observed = s.observed ++ [PortOut.quiet] := rfl
@[simp] theorem idleStep_faults : (idleStep s).faults = s.faults := rfl

@[simp] theorem raiseIllegalCommand_regs : (raiseIllegalCommand w s).regs = s.regs := rfl
@[simp] theorem raiseIllegalCommand_inputs : (raiseIllegalCommand w s).inputs = s.inputs := rfl
@[simp] theorem raiseIllegalCommand_observed :
    (raiseIllegalCommand w s).observed = s.observed ++ [PortOut.error] := rfl
@[simp] theorem raiseIllegalCommand_faults :
    (raiseIllegalCommand w s).faults = s.faults ++ [.illegalCommand w] := rfl

@[simp] theorem present_nextInput : (s.present p).nextInput = p := rfl
@[simp] theorem present_takeInput : (s.present p).takeInput = s := rfl

@[simp] theorem hwreset_rst : PortIn.hwreset.rst = true := rfl
@[simp] theorem idle_rst : PortIn.idle.rst = false := rfl
@[simp] theorem idle_cmdValid : PortIn.idle.cmdValid = false := rfl
@[simp] theorem command_rst : (PortIn.command w).rst = false := rfl
@[simp] theorem command_cmdValid : (PortIn.command w).cmdValid = true := rfl
@[simp] theorem command_cmd : (PortIn.command w).cmd = w := rfl

end Sys2Proof.Machine
end

