-- ==== Sys2Proof/Laws/Ops.lean ====
section
/-! SUPPORT. What the operations over the register file and the datapath can do, one lemma each. -/

namespace Sys2Proof.Machine

/-- Two register files that read the same in every lane are equal: the file is its six registers (R20). -/
theorem DigestFile.ext_read {r t : DigestFile} (h : ∀ l, r.read l = t.read l) : r = t := by
  cases r
  cases t
  have h0 := h .fnv1_32
  have h1 := h .fnv1a_32
  have h2 := h .fnv1_64
  have h3 := h .fnv1a_64
  have h4 := h .fnv1_128
  have h5 := h .fnv1a_128
  simp only [DigestFile.read] at h0 h1 h2 h3 h4 h5
  subst h0 h1 h2 h3 h4 h5
  rfl

/-- `register_update` writes its lane and no other (R82, R27 (a)). -/
theorem read_registerUpdate (r : DigestFile) (l k : Lane) (v : BitVec l.bits) :
    (r.registerUpdate l v).read k = if h : l = k then h ▸ v else r.read k := by
  cases l <;> cases k <;> rfl

/-- One conditional `register_update` of the fold in `updateSelected`. -/
theorem read_updateIf (r : DigestFile) (c : Bool) (v : (l : Lane) → BitVec l.bits) (l k : Lane) :
    (if c then r.registerUpdate l (v l) else r).read k = if c ∧ l = k then v k else r.read k := by
  cases c
  · simp
  · by_cases h : l = k
    · subst h
      simp [read_registerUpdate]
    · simp [read_registerUpdate, h]

/-- The fold of `updateSelected` over any list of lanes writes the selected lanes of the list. -/
theorem read_foldl_update (ls : List Lane) (r : DigestFile) (m : LaneMask) (v : (l : Lane) → BitVec l.bits) (k : Lane) :
    (ls.foldl (fun acc l => if selects m l then acc.registerUpdate l (v l) else acc) r).read k =
      if k ∈ ls ∧ selects m k then v k else r.read k := by
  induction ls generalizing r with
  | nil => simp
  | cons l ls ih =>
    rw [List.foldl_cons, ih, read_updateIf]
    by_cases hk : k ∈ ls
    · simp only [hk, List.mem_cons, or_true, true_and]
      by_cases hs : selects m k
      · simp [hs]
      · by_cases hl : l = k
        · subst hl
          simp [hs]
        · simp [hs, hl]
    · by_cases hl : l = k
      · subst hl
        simp [hk]
      · have hl' : k ≠ l := fun h => hl h.symm
        simp [hk, hl, hl']

/-- `updateSelected` writes each selected lane with its value and no other lane. -/
@[simp] theorem read_updateSelected (r : DigestFile) (m : LaneMask) (v : (l : Lane) → BitVec l.bits) (k : Lane) :
    (r.updateSelected m v).read k = if selects m k then v k else r.read k := by
  have h : k ∈ lanes := by cases k <;> decide
  rw [DigestFile.updateSelected, read_foldl_update]
  simp [h]

/-- A WRITE updates each selected lane from its own value and leaves the others (R100, R107). -/
@[simp] theorem read_afterWrite (r : DigestFile) (m : LaneMask) (b : Byte) (k : Lane) :
    (r.afterWrite m b).read k = if selects m k then laneUpdate k (r.read k) b else r.read k := by
  simp [DigestFile.afterWrite]

/-- A RESET restores each selected lane and leaves the others (R140). -/
@[simp] theorem read_afterReset (r : DigestFile) (m : LaneMask) (k : Lane) :
    (r.afterReset m).read k = if selects m k then offsetBasis k else r.read k := by
  simp [DigestFile.afterReset]

/-- The reset state reads as the offset basis in every lane (R170). -/
@[simp] theorem read_reset (k : Lane) : DigestFile.reset.read k = offsetBasis k := by
  cases k <;> rfl

/-- The single-lane mask selects its lane and no other (R68). -/
@[simp] theorem selects_maskOfLane (l k : Lane) : selects (maskOfLane l) k = decide (l = k) := by
  cases l <;> cases k <;> decide

/-- The full mask selects every lane (R68). -/
@[simp] theorem selects_allLanes (k : Lane) : selects allLanes k = true := by
  cases k <;> decide

/-- The empty mask selects none (R68). -/
@[simp] theorem selects_zero (k : Lane) : selects 0#6 k = false := by
  cases k <;> decide

/-- The multiplier as multiplication of bit vectors, which wraps by definition (R80). -/
theorem mulPrime_eq (w : Width) (x : BitVec w.bits) : mulPrime w x = x * Config.prime w := by
  apply BitVec.eq_of_toNat_eq
  simp [mulPrime, BitVec.toNat_mul]

/-- The byte folded in twice cancels (R81). -/
@[simp] theorem xorReduce_xorReduce (w : Width) (x : BitVec w.bits) (b : Byte) :
    xorReduce w (xorReduce w x b) b = x := by
  simp [xorReduce]

/-- A zero byte leaves the register to the multiplier (R81, R87). -/
@[simp] theorem xorReduce_zero (w : Width) (x : BitVec w.bits) : xorReduce w x 0#8 = x := by
  simp [xorReduce, byteAt]

@[simp] theorem foldBytes_nil (l : Lane) (r : BitVec l.bits) : foldBytes l r [] = r := rfl

@[simp] theorem foldBytes_cons (l : Lane) (r : BitVec l.bits) (b : Byte) (bs : List Byte) :
    foldBytes l r (b :: bs) = foldBytes l (laneUpdate l r b) bs := rfl

@[simp] theorem quiet_lawful_parts :
    PortOut.quiet.rspValid = false ∧ PortOut.quiet.rspData = 0#128 ∧ PortOut.quiet.cmdErr = false :=
  ⟨rfl, rfl, rfl⟩

end Sys2Proof.Machine
end

