-- ==== Sys2Proof/Laws/PerInstr.lean ====
section
/-! SUPPORT. The per-instruction family `OwnRow`: the word of every instruction matches the instruction's own row of the opcode
table, so it is a legal word (30_encoding.md R70). -/

namespace Sys2Proof.Laws.OwnRow

/-- The instruction is well formed, its word has the fixed bits of its own row, and that row stands in the opcode table. -/
def Statement (i : Instr) : Prop :=
  i.wellFormed = true ∧ i.row.accepts (encode i) = true ∧ i.row ∈ opcodeTable

theorem nop : Statement .nop := ⟨rfl, rfl, by decide⟩

theorem write (m : LaneMask) (b : Byte) : Statement (.write m b) := by
  refine ⟨by simpa [Instr.wellFormed] using ⟨m.isLt, b.isLt⟩, ?_, ?_⟩
  · have hb : ∀ k : Nat, k < 16 → (0xc000#16).getLsbD k = (decide (k = 14) || decide (k = 15)) := by decide
    have hp : ∀ k : Nat, k < 16 → (0x4000#16).getLsbD k = decide (k = 14) := by decide
    simp only [TableRow.accepts, Instr.row, beq_iff_eq]
    apply BitVec.eq_of_getLsbD_eq
    intro k hk
    rw [BitVec.getLsbD_and, hb k hk, hp k hk]
    rcases (by omega : k < 14 ∨ k = 14 ∨ k = 15) with h | rfl | rfl
    · simp [show k ≠ 14 by omega, show k ≠ 15 by omega]
    · simp only [encode, CmdWord.ofFields, BitVec.getLsbD_append]
      simp
    · simp only [encode, CmdWord.ofFields, BitVec.getLsbD_append]
      simp
  · simp [opcodeTable, Instr.row]

theorem reset (m : LaneMask) : Statement (.reset m) := by
  have h : ∀ m : LaneMask, (Instr.row (.reset m)).accepts (encode (.reset m)) = true := by decide
  exact ⟨by simpa [Instr.wellFormed] using m.isLt, h m, by simp [opcodeTable, Instr.row]⟩

theorem finishFnv1_32 : Statement .finishFnv1_32 := ⟨rfl, rfl, by decide⟩

theorem finishFnv1a_32 : Statement .finishFnv1a_32 := ⟨rfl, rfl, by decide⟩

theorem finishFnv1_64 : Statement .finishFnv1_64 := ⟨rfl, rfl, by decide⟩

theorem finishFnv1a_64 : Statement .finishFnv1a_64 := ⟨rfl, rfl, by decide⟩

theorem finishFnv1_128 : Statement .finishFnv1_128 := ⟨rfl, rfl, by decide⟩

theorem finishFnv1a_128 : Statement .finishFnv1a_128 := ⟨rfl, rfl, by decide⟩

end Sys2Proof.Laws.OwnRow
end

