-- ==== Sys2Proof/Laws/Step.lean ====
section
/-! SUPPORT. What a step can do, said once: the four cases of priority (60_exceptions.md R154), and what `exec` answers. -/

namespace Sys2Proof.Machine

/-- What a command answers, said once for all nine: a next state whose registers are a WRITE's or a RESET's, or unchanged, and
whose one new output tuple is quiet or a response. -/
theorem exec_answers (i : Instr) (s : State) :
    ∃ t, exec i s = .next t ∧ t.inputs = s.inputs ∧ t.faults = s.faults ∧
      ((t.regs = s.regs ∧ t.observed = s.observed ++ [PortOut.quiet]) ∨
        (∃ m b, i = .write m b ∧ t.regs = s.regs.afterWrite m b ∧ t.observed = s.observed ++ [PortOut.quiet]) ∨
        (∃ m, i = .reset m ∧ t.regs = s.regs.afterReset m ∧ t.observed = s.observed ++ [PortOut.quiet]) ∨
        (∃ l, t.regs = s.regs ∧ t.observed = s.observed ++ [PortOut.response (s.regs.read l)])) := by
  cases i with
  | nop => exact ⟨_, rfl, rfl, rfl, .inl ⟨rfl, rfl⟩⟩
  | write m b => exact ⟨_, rfl, rfl, rfl, .inr (.inl ⟨m, b, rfl, rfl, rfl⟩)⟩
  | reset m => exact ⟨_, rfl, rfl, rfl, .inr (.inr (.inl ⟨m, rfl, rfl, rfl⟩))⟩
  | finishFnv1_32 => exact ⟨_, rfl, rfl, rfl, .inr (.inr (.inr ⟨.fnv1_32, rfl, rfl⟩))⟩
  | finishFnv1a_32 => exact ⟨_, rfl, rfl, rfl, .inr (.inr (.inr ⟨.fnv1a_32, rfl, rfl⟩))⟩
  | finishFnv1_64 => exact ⟨_, rfl, rfl, rfl, .inr (.inr (.inr ⟨.fnv1_64, rfl, rfl⟩))⟩
  | finishFnv1a_64 => exact ⟨_, rfl, rfl, rfl, .inr (.inr (.inr ⟨.fnv1a_64, rfl, rfl⟩))⟩
  | finishFnv1_128 => exact ⟨_, rfl, rfl, rfl, .inr (.inr (.inr ⟨.fnv1_128, rfl, rfl⟩))⟩
  | finishFnv1a_128 => exact ⟨_, rfl, rfl, rfl, .inr (.inr (.inr ⟨.fnv1a_128, rfl, rfl⟩))⟩

/-- Inversion of the clock edge: hardware reset, idle, IllegalCommand, or the decoded command (R154). -/
theorem clockEdge_cases (p : PortIn) (s : State) :
    (p.rst = true ∧ clockEdge p s = .next (hardwareReset s)) ∨
      (p.rst = false ∧ p.cmdValid = false ∧ clockEdge p s = .next (idleStep s)) ∨
      (p.rst = false ∧ p.cmdValid = true ∧ ∃ c, decode p.cmd = .illegal c ∧
        clockEdge p s = .next (raiseIllegalCommand p.cmd s)) ∨
      (p.rst = false ∧ p.cmdValid = true ∧ ∃ i, decode p.cmd = .command i ∧ clockEdge p s = exec i s) := by
  unfold clockEdge
  cases hr : p.rst
  · cases hv : p.cmdValid
    · simp
    · cases hd : decode p.cmd <;> simp
  · simp

/-- What the clock edge does to one lane, for every tuple: the offset basis where the tuple restarts it, else the update with the
byte the tuple writes to it, else nothing (R27 (d)). It takes no tuple from the list and drives one output tuple. -/
theorem clockEdge_lane (l : Lane) (p : PortIn) (s : State) :
    ∃ (t : State) (o : PortOut), clockEdge p s = .next t ∧ t.inputs = s.inputs ∧ t.observed = s.observed ++ [o] ∧
      t.regs.read l = if p.restarts l then offsetBasis l else foldBytes l (s.regs.read l) (p.writes l).toList := by
  obtain ⟨h, e⟩ | ⟨h, h', e⟩ | ⟨h, h', c, hd, e⟩ | ⟨h, h', i, hd, e⟩ := clockEdge_cases p s
  · exact ⟨_, _, e, rfl, rfl, by simp [PortIn.restarts, h]⟩
  · exact ⟨_, _, e, rfl, rfl, by simp [PortIn.restarts, PortIn.writes, PortIn.performs, h, h']⟩
  · exact ⟨_, _, e, rfl, rfl, by simp [PortIn.restarts, PortIn.writes, PortIn.performs, h, h', hd, Decoded.toInstr]⟩
  · have hp : p.performs = some i := by simp [PortIn.performs, h, h', hd, Decoded.toInstr]
    cases i with
    | write m b =>
      refine ⟨_, _, e, rfl, rfl, ?_⟩
      cases hm : selects m l <;> simp [PortIn.restarts, PortIn.writes, hp, h, hm]
    | reset m => exact ⟨_, _, e, rfl, rfl, by simp [PortIn.restarts, PortIn.writes, hp, h]⟩
    | _ => exact ⟨_, _, e, rfl, rfl, by simp [PortIn.restarts, PortIn.writes, hp, h]⟩

/-- The step in which the host presents `p` is the clock edge with `p` (R10). -/
@[simp] theorem step_present (p : PortIn) (s : State) : step (s.present p) = clockEdge p s := rfl

@[simp] theorem run_zero (s : State) : run 0 s = .next s := rfl

/-- One step more of a run. -/
theorem run_succ {s t : State} (n : Nat) (h : step s = .next t) : run (n + 1) s = run n t := by
  simp only [run, h]

@[simp] theorem stateAfter_zero (ps : Nat → PortIn) (s : State) : stateAfter ps s 0 = .next s := rfl

/-- One step more of an infinite run: the clock edge with the next tuple of the sequence (R13). -/
theorem stateAfter_succ {ps : Nat → PortIn} {s t : State} {n : Nat} (h : stateAfter ps s n = .next t) :
    stateAfter ps s (n + 1) = clockEdge (ps n) t := by
  simp only [stateAfter, h, step_present]

/-- The machine behind the host's interface runs as `run` does. -/
theorem core_run (n : Nat) (s : State) : Sys2Proof.core.run n s = run n s := by
  induction n generalizing s with
  | zero => rfl
  | succ n ih =>
    have hs : Sys2Proof.core.step s = step s := rfl
    simp only [Host.Core.run, run, hs]
    cases step s with
    | next t => exact ih t
    | fault f => rfl
    | refused r => rfl

end Sys2Proof.Machine
end

