-- ==== Sys2Proof/Tests/Slice0.lean ====
section
/-! SUPPORT. The model's own tests. Expected values come from spec/95_test_vectors.md (the section is named with each), from
the encodings of 30_encoding.md written out bit by bit, or from the rules' own examples. The last part gives, for each
obligation with hypotheses, operands that meet them. -/

namespace Sys2Proof.Tests

open Sys2Proof.Machine

/-- The next state of a step or a command, if there is one. -/
def after (o : Host.Outcome State Fault Refusal) : Option State :=
  match o with
  | .next s => some s
  | .fault _ => none
  | .refused _ => none

/-- The state `T` of 95_test_vectors.md section 2.8. -/
def stateT : State where
  regs := {
    d0 := 0x050c5d7e#32
    d1 := 0xe40c292c#32
    d2 := 0xaf63bd4c8601b7be#64
    d3 := 0xaf63dc4c8601ec8c#64
    d4 := 0xd228cb69101a8caf78912b704e4a141e#128
    d5 := 0xd228cb696f1a8caf78912b704e4a8964#128 }
  inputs := []
  observed := []
  faults := []

/-- The registers and the output tuples after `stateT` steps with `rst`, `cmd_valid`, `cmd`. -/
def fromT (rst valid : Bool) (cmd : CmdWord) : Option (DigestFile × List PortOut) :=
  (after (step (stateT.present { rst := rst, cmdValid := valid, cmd := cmd }))).map (fun s => (s.regs, s.observed))

/-! ### Well-formedness: an ill-formed word for each case of R70, and operands out of range -/

theorem test_illformed_x1 : CmdWord.wellFormed 0x0100#16 = false := by decide
theorem test_illformed_x2 : CmdWord.wellFormed 0x8001#16 = false := by decide
theorem test_illformed_x3 : CmdWord.wellFormed 0xc800#16 = false := by decide
theorem test_illformed_x4 : CmdWord.wellFormed 0xc600#16 = false := by decide
theorem test_illformed_x5 : CmdWord.wellFormed 0xc101#16 = false := by decide
theorem test_wellformed_words : [0x0000#16, 0x4000#16, 0x7fff#16, 0xbf00#16, 0xc500#16].all CmdWord.wellFormed = true := by
  decide
theorem test_wellformed_write : (Instr.write 0b111111#6 0xff#8).wellFormed = true := by decide
theorem test_rows_are_disjoint : opcodeTable.Pairwise
    (fun r q => r.pattern &&& (r.mask &&& q.mask) ≠ q.pattern &&& (r.mask &&& q.mask)) := by decide
theorem test_asm_lane_6_is_none : (AsmLine.finish (.numbered 6)).tuples? = none := by decide
theorem test_asm_mask_64_is_none : (AsmLine.reset (.masked 64)).tuples? = none := by decide
theorem test_asm_byte_256_is_none : (AsmLine.write .all 256).tuples? = none := by decide
theorem test_asm_legal_word_is_not_illegal : (AsmLine.illegal 0x4000).tuples? = none := by decide

/-! ### Decoding, each word written out bit by bit from its format (R63 to R66) -/

theorem test_decode_nop : decode 0b0000000000000000#16 = .command .nop := by decide
theorem test_decode_write : decode 0b0110001101100001#16 = .command (.write 0b100011#6 0x61#8) := by decide
theorem test_decode_write_one_lane : decode 0b0100000110000000#16 = .command (.write 0b000001#6 0x80#8) := by decide
theorem test_decode_reset : decode 0b1001010000000000#16 = .command (.reset 0b010100#6) := by decide
theorem test_decode_finish_0 : decode 0b1100000000000000#16 = .command .finishFnv1_32 := by decide
theorem test_decode_finish_1 : decode 0b1100000100000000#16 = .command .finishFnv1a_32 := by decide
theorem test_decode_finish_2 : decode 0b1100001000000000#16 = .command .finishFnv1_64 := by decide
theorem test_decode_finish_3 : decode 0b1100001100000000#16 = .command .finishFnv1a_64 := by decide
theorem test_decode_finish_4 : decode 0b1100010000000000#16 = .command .finishFnv1_128 := by decide
theorem test_decode_finish_5 : decode 0b1100010100000000#16 = .command .finishFnv1a_128 := by decide
theorem test_decode_illegal : [0x3fff#16, 0xbfff#16, 0xe000#16, 0xc700#16, 0xc101#16].map decode =
    [.illegal .malformedNop, .illegal .malformedReset, .illegal .malformedFinish, .illegal .noSuchLane,
      .illegal .finishWithData] := by decide
theorem test_encode_words : [encode (.write 0x0a#6 0x66#8), encode (.reset 0x3f#6), encode .finishFnv1a_128] =
    [0x4a66#16, 0xbf00#16, 0xc500#16] := by decide
theorem test_table_word : decodeTableWord 16 0xc300 = some .finishFnv1a_64 := by decide
theorem test_table_word_runs : (after (step (State.reset.withFetchWord 16 0x7f61))).map (fun s => s.regs) =
    some stateT.regs := by decide

/-! ### Datapath (sections 2.1 to 2.3) -/

theorem test_mul : (mulPrime .w32 0xffffffff#32, mulPrime .w64 0xffffffffffffffff#64,
    mulPrime .w128 0x6c62272e07bb014262b821756295c58d#128) =
    (0xfefffe6d#32, 0xfffffefffffffe4d#64, 0xd228cb69101a8caf78912b704e4a147f#128) := by decide
theorem test_mul_shift_add : (mulShiftAdd .w32 0x811c9dc5#32, mulShiftAdd .w64 0xcbf29ce484222325#64,
    mulShiftAdd .w128 0xffffffffffffffffffffffffffffffff#128) =
    (0x050c5d1f#32, 0xaf63bd4c8601b7df#64, 0xfffffffffefffffffffffffffffffec5#128) := by decide
theorem test_xor_is_not_sign_extended : xorReduce .w64 0xffffffffffffffff#64 0x80#8 = 0xffffffffffffff7f#64 := by decide
theorem test_update_fnv1 : (laneUpdate .fnv1_32 0xffffffff#32 0xff#8, laneUpdate .fnv1_64 0x8000000000000000#64 0x80#8,
    laneUpdate .fnv1_128 0xffffffffffffffffffffffffffffffff#128 0xff#8) =
    (0xfefffe92#32, 0x8000000000000080#64, 0xfffffffffefffffffffffffffffffe3a#128) := by decide
theorem test_update_fnv1a : (laneUpdate .fnv1a_32 0x80000000#32 0x80#8, laneUpdate .fnv1a_64 0xffffffffffffffff#64 0xff#8,
    laneUpdate .fnv1a_128 0x00000000000000000000000000000000#128 0x61#8) =
    (0x0000c980#32, 0xfffefffffffe4d00#64, 0x0000000061000000000000000000775b#128) := by decide
theorem test_hash_foobar : (hashOf .fnv1a_32 [0x66#8, 0x6f#8, 0x6f#8, 0x62#8, 0x61#8, 0x72#8],
    hashOf .fnv1_128 [0x66#8, 0x6f#8, 0x6f#8, 0x62#8, 0x61#8, 0x72#8]) =
    (0xbf9cf968#32, 0x7896bfea9c3c64bf6dc58353d2c293aa#128) := by decide
theorem test_hash_through_zero : (hashOf .fnv1a_32 [0xcc#8, 0x24#8, 0x31#8, 0xc4#8],
    hashOf .fnv1_32 [0x01#8, 0x47#8, 0x6c#8, 0x10#8, 0xf3#8, 0x61#8]) = (0x00000000#32, 0x00000061#32) := by decide

/-! ### Single steps (section 2.8) -/

theorem test_write_all : (after (exec (.write 0x3f#6 0x61#8) State.reset)).map (fun s => (s.regs, s.observed)) =
    some (stateT.regs, [PortOut.mk false 0 false]) := by decide
theorem test_write_no_lane : fromT false true 0x4061#16 = some (stateT.regs, [PortOut.mk false 0 false]) := by decide
theorem test_reset_lane_1 : fromT false true 0x8200#16 =
    some ({ stateT.regs with d1 := 0x811c9dc5#32 }, [PortOut.mk false 0 false]) := by decide
theorem test_reset_lanes_2_and_4 : fromT false true 0x9400#16 =
    some ({ stateT.regs with d2 := 0xcbf29ce484222325#64, d4 := 0x6c62272e07bb014262b821756295c58d#128 },
      [PortOut.mk false 0 false]) := by decide
theorem test_nop : fromT false true 0x0000#16 = some (stateT.regs, [PortOut.mk false 0 false]) := by decide
theorem test_finish_0 : fromT false true 0xc000#16 =
    some (stateT.regs, [PortOut.mk true 0x050c5d7e#128 false]) := by decide
theorem test_finish_1 : fromT false true 0xc100#16 =
    some (stateT.regs, [PortOut.mk true 0xe40c292c#128 false]) := by decide
theorem test_finish_2 : fromT false true 0xc200#16 =
    some (stateT.regs, [PortOut.mk true 0xaf63bd4c8601b7be#128 false]) := by decide
theorem test_finish_3 : fromT false true 0xc300#16 =
    some (stateT.regs, [PortOut.mk true 0xaf63dc4c8601ec8c#128 false]) := by decide
theorem test_finish_4 : fromT false true 0xc400#16 =
    some (stateT.regs, [PortOut.mk true 0xd228cb69101a8caf78912b704e4a141e#128 false]) := by decide
theorem test_finish_5 : fromT false true 0xc500#16 =
    some (stateT.regs, [PortOut.mk true 0xd228cb696f1a8caf78912b704e4a8964#128 false]) := by decide
theorem test_idle_with_write_word : fromT false false 0x7f61#16 =
    some (stateT.regs, [PortOut.mk false 0 false]) := by decide
theorem test_illegal_finish_of_lane_7 : fromT false true 0xc700#16 =
    some (stateT.regs, [PortOut.mk false 0 true]) := by decide
theorem test_illegal_reset_resets_nothing : fromT false true 0x8201#16 =
    some (stateT.regs, [PortOut.mk false 0 true]) := by decide
theorem test_illegal_is_recorded : (after (step (stateT.present (PortIn.command 0xc101#16)))).map (fun s => s.faults) =
    some [Fault.illegalCommand 0xc101#16] := by decide
theorem test_hwreset_loses_the_write : fromT true true 0x7f61#16 =
    some (DigestFile.reset, [PortOut.mk false 0 false]) := by decide
theorem test_hwreset_raises_no_error : fromT true true 0xc700#16 =
    some (DigestFile.reset, [PortOut.mk false 0 false]) := by decide

/-- An infinite run (R13): `rst`, then `a` to lane 1 and its FINISH for ever; the first response is the vector of section 1. -/
theorem test_infinite_run :
    let ps : Nat → PortIn := fun k => if k = 0 then PortIn.hwreset else if k % 2 = 1 then PortIn.command 0x4261#16
      else PortIn.command 0xc100#16
    (List.range 3).map (observationAt ps stateT) =
      [some (PortOut.mk false 0 false), some (PortOut.mk false 0 false), some (PortOut.mk true 0xe40c292c#128 false)] := by
  decide

/-! ### Assembly (R74 to R77; programs P3, P4 for the words) -/

theorem test_asm_write_braces : assembleLine (wordWrite ++ [' ', Char.ofNat 0x7b] ++ laneName .fnv1a_32 ++ [',', ' '] ++
    laneName .fnv1a_64 ++ [Char.ofNat 0x7d, ',', ' ', Char.ofNat 0x27, 'f', Char.ofNat 0x27, ' ', ';', 'x']) =
    some [PortIn.command 0x4a66#16] := by decide
theorem test_asm_hash_string : assembleLine (wordHash ++ [' ', '#', '1', ',', ' ', Char.ofNat 0x22, 'o', 'o', Char.ofNat 0x22]) =
    some [PortIn.command 0x8200#16, PortIn.command 0x426f#16, PortIn.command 0x426f#16, PortIn.command 0xc100#16] := by
  decide
theorem test_asm_directives : assemble [wordIdle, wordHwreset, wordNew] =
    some [PortIn.idle, PortIn.hwreset, PortIn.command 0xbf00#16] := by decide
theorem test_asm_lane_number_spellings : [['#', '3'], ['#', '0', 'x', '3'], ['#', '0', '3'], ['#', '6']].map
    (fun t => (readLane t).bind LaneRef.lane?) = [some .fnv1a_64, some .fnv1a_64, some .fnv1a_64, none] := by decide
theorem test_asm_short_illegal : (assembleLine (wordIllegal ++ [' ', '1']), assembleLine (wordIllegal ++ [' ', '0', 'x', '1'])) =
    (some [PortIn.command 0x0001#16], some [PortIn.command 0x0001#16]) := by decide
theorem test_disassemble : (disassemble 0x7f61#16, disassemble 0xc600#16) =
    (['w', 'r', 'i', 't', 'e', ' ', '#', '0', 'x', '3', 'f', ',', ' ', '0', 'x', '6', '1'],
      ['.', 'i', 'l', 'l', 'e', 'g', 'a', 'l', ' ', '0', 'x', 'c', '6', '0', '0']) := by decide

/-! ### Witnesses: operands that meet the hypotheses of the obligations -/

/-- EncodeOfDecode; the clauses of DecodeByFields at `OP` 0, 1, 2, 3 and lane index 5. -/
theorem witness_decoded_words : decode 0x4a66#16 = .command (.write 0x0a#6 0x66#8) ∧
    (0x3fff#16).toNat / 2 ^ 14 = 0 ∧ (0x7fff#16).toNat / 2 ^ 14 = 1 ∧ (0x8000#16).toNat / 2 ^ 14 = 2 ∧
    (0xc500#16).toNat / 2 ^ 14 = 3 ∧ (0xc500#16).toNat / 2 ^ 8 % 2 ^ 6 % 2 ^ 3 = 5 := by decide

/-- PseudoInstructionExpansions: a mixed list, and a lane by name and by number. -/
theorem witness_lanes_operand : (LanesRef.listed [.named .fnv1a_32, .numbered 3]).mask? = some 0b001010#6 ∧
    (LaneRef.named .fnv1_32).lane? = some .fnv1_32 ∧ (LaneRef.numbered 5).lane? = some .fnv1a_128 := by decide

/-- OrdersDifferOnEveryNonzeroByte: the least and the greatest such byte. -/
theorem witness_nonzero_bytes : (0x01#8 : Byte) ≠ 0x00#8 ∧ (0xff#8 : Byte) ≠ 0x00#8 := by decide

/-- XorReduceTouchesTheLowByteOnly: both sides of its boundary. -/
theorem witness_bit_positions : 7 < 8 ∧ 8 ≤ 8 := by decide

/-- WriteOnFnv1Lanes and WriteOnFnv1aLanes: every mask bit set, a zero byte, zero registers. -/
theorem witness_mask_bits : (List.range 6).all (fun k => (0b111111#6).getLsbD k) = true ∧ (0x00#8 : Byte) = 0 ∧
    (DigestFile.mk 0 0 0 0 0 0).d0 = 0 := by decide

/-- BroadcastIsSeparateWritesInAnyOrder. -/
theorem witness_broadcast : [Lane.fnv1a_64, Lane.fnv1a_32].Nodup ∧
    ∀ l : Lane, l ∈ [Lane.fnv1a_64, Lane.fnv1a_32] ↔ (0b001010#6).getLsbD (laneNumber l) = true := by
  refine ⟨by decide, fun l => ?_⟩
  cases l <;> decide

/-- The list of FinishIsReadOnlyAndRepeatable for lane 1: another lane written and reset, an idle step, a reserved word. -/
def between : List PortIn :=
  [PortIn.command 0x4178#16, PortIn.command 0x8100#16, PortIn.idle, PortIn.command 0xc700#16]

/-- FinishIsReadOnlyAndRepeatable. -/
theorem witness_finish_twice : (∀ p ∈ between, p.writes .fnv1a_32 = none ∧ p.restarts .fnv1a_32 = false) ∧
    ({ stateT with inputs := PortIn.command 0xc100#16 :: between ++ [PortIn.command 0xc100#16] } : State).inputs =
      PortIn.command (encode (finishOfLane .fnv1a_32)) :: between ++
        [PortIn.command (encode (finishOfLane .fnv1a_32))] := by decide

/-- FinishAfterResetReturnsTheOffsetBasis and StepWithNothingListedIsIdle. -/
theorem witness_reset_state : State.reset.regs = DigestFile.reset ∧ State.reset.inputs = [] := by decide

/-- ResponseExactlyOnFinish: each lane's FINISH performed, and a tuple that performs none. -/
theorem witness_performs : (∀ l ∈ lanes, (PortIn.command (encode (finishOfLane l))).performs = some (finishOfLane l)) ∧
    (∀ l ∈ lanes, (PortIn.command 0x7f61#16).performs ≠ some (finishOfLane l)) := by decide

/-- ResetRestoresTheSelectedLanes and NopLeavesTheState: the empty mask, a lane at its offset basis, a reserved RESET word and a
reserved NOP word. -/
theorem witness_reset_and_nop : (0#6 : LaneMask) = 0 ∧ State.reset.regs.read .fnv1_64 = offsetBasis .fnv1_64 ∧
    (0x8201#16).toNat / 2 ^ 14 = 2 ∧ (0x8201#16).toNat % 2 ^ 8 ≠ 0 ∧
    (0x0100#16).toNat / 2 ^ 14 = 0 ∧ (0x0100#16 : CmdWord) ≠ 0x0000#16 := by decide

/-- IdleStepIgnoresTheCommand, the idle clause of StepFunction, and a tuple that is not illegal. -/
theorem witness_idle_tuple : (PortIn.mk false false 0xffff#16).rst = false ∧
    (PortIn.mk false false 0xffff#16).cmdValid = false ∧ (PortIn.mk false false 0xffff#16).illegal = false := by decide

/-- StepRunsTheDecodedCommand and the command clause of StepFunction. -/
theorem witness_command_tuple : (stateT.present (PortIn.command 0x4161#16)).inputs = PortIn.command 0x4161#16 :: [] ∧
    (PortIn.command 0x4161#16).rst = false ∧ (PortIn.command 0x4161#16).cmdValid = true ∧
    decode (PortIn.command 0x4161#16).cmd = .command (.write 0b000001#6 0x61#8) := by decide

/-- IllegalCommandStep and StepAfterIllegalCommandIsOrdinary. -/
theorem witness_reserved_words : CmdWord.wellFormed 0xffff#16 = false ∧ CmdWord.wellFormed 0x0001#16 = false ∧
    (PortIn.command 0xffff#16).illegal = true := by decide

/-- HardwareResetConstructsEveryLane and the reset clause of StepFunction. -/
theorem witness_rst_tuple : (PortIn.mk true true 0xc700#16).rst = true := by decide

/-- BootDutyReachesTheResetState, from the power-on contents. -/
theorem witness_boot :
    (State.powerOn [PortIn.idle, PortIn.hwreset, PortIn.idle, PortIn.command 0xc100#16]).inputs =
      [PortIn.idle, PortIn.hwreset, PortIn.idle] ++ PortIn.command 0xc100#16 :: [] ∧
    (∀ q ∈ [PortIn.idle, PortIn.hwreset, PortIn.idle], q.cmdValid = false) ∧
    (PortIn.command 0xc100#16).cmdValid = true ∧
    bootDuty (State.powerOn [PortIn.idle, PortIn.hwreset, PortIn.idle, PortIn.command 0xc100#16]).inputs = true := by
  decide

/-- IncrementalEquivalence for lane 1, with a WRITE to it among the tuples. -/
theorem witness_incremental :
    ({ stateT with inputs := PortIn.command 0x4a66#16 :: between ++ [PortIn.hwreset] } : State).inputs =
      (PortIn.command 0x4a66#16 :: between) ++ [PortIn.hwreset] ∧
    (∀ p ∈ PortIn.command 0x4a66#16 :: between, p.restarts .fnv1a_32 = false) ∧
    bytesTo .fnv1a_32 (PortIn.command 0x4a66#16 :: between) = [0x66#8] := by decide

/-- HashReturnsTheHashFromAnyState: lane 1 by name and as `#1`. -/
theorem witness_hash : ∀ r ∈ [LaneRef.named .fnv1a_32, LaneRef.numbered 1], r.lane? = some .fnv1a_32 ∧
    (AsmLine.hash r ([0x61#8].map BitVec.toNat)).tuples? =
      some [PortIn.command 0x8200#16, PortIn.command 0x4261#16, PortIn.command 0xc100#16] := by decide

/-- InfiniteRunNeverHalts: two sequences that agree up to step 2 and differ after it. -/
theorem witness_agreeing_sequences :
    let ps : Nat → PortIn := fun _ => PortIn.command 0x4261#16
    let qs : Nat → PortIn := fun k => if k ≤ 2 then PortIn.command 0x4261#16 else PortIn.hwreset
    (∀ k : Nat, k ≤ 2 → ps k = qs k) ∧ ps 3 ≠ qs 3 := by
  refine ⟨fun k hk => ?_, by decide⟩
  simp [hk]

/-- LaneSeesOnlyItsOwnRegister: two states that differ in every register but lane 1's, about to finish lane 1. -/
theorem witness_two_states :
    let s := stateT.present (PortIn.command 0xc100#16)
    let s' := s.withRegs { DigestFile.reset with d1 := stateT.regs.d1 }
    s.inputs = s'.inputs ∧ s.regs.read .fnv1a_32 = s'.regs.read .fnv1a_32 ∧ s.regs.d0 ≠ s'.regs.d0 ∧
      s.nextInput.performs = some (finishOfLane .fnv1a_32) := by decide

/-- StepKeepsTheRecordLawful: a lawful state with a response and a fault in its record, which steps. -/
theorem witness_lawful_state :
    let s : State := { stateT with
      observed := [PortOut.mk true 0xe40c292c#128 false, PortOut.mk false 0 true]
      faults := [Fault.illegalCommand 0xc700#16] }
    s.recordLawful = true ∧ (after (step s)).isSome = true := by decide

/-- StepExtendsTheHashedBytes: a register that holds the hash of one byte, and a tuple that writes a byte to its lane, one that
restarts it by RESET, one by `rst` over a WRITE, and one that does neither. -/
theorem witness_hashed_bytes : stateT.regs.read .fnv1a_32 = hashOf .fnv1a_32 [0x61#8] ∧
    (PortIn.command 0x4a66#16).writes .fnv1a_32 = some 0x66#8 ∧
    (PortIn.command 0x4a66#16).restarts .fnv1a_32 = false ∧ (PortIn.command 0x8200#16).restarts .fnv1a_32 = true ∧
    (PortIn.mk true true 0x4a66#16).restarts .fnv1a_32 = true ∧
    (PortIn.command 0x7d66#16).writes .fnv1a_32 = none ∧ (PortIn.command 0xbd00#16).restarts .fnv1a_32 = false := by
  decide

/-- StepExtendsTheHashedBytes over many tuples: `a`, a restart, `f` among tuples for other lanes. -/
theorem witness_bytes_since_restart :
    ([PortIn.command 0x7f61#16, PortIn.command 0x8200#16] ++ between ++ [PortIn.command 0x4a66#16]).foldl
      (bytesSinceRestart .fnv1a_32) [0x61#8] = [0x66#8] := by decide

end Sys2Proof.Tests
end

section
/-! PROOFS. The decoder against the opcode table: a reserved word is not well formed (30_encoding.md R70). -/

namespace Sys2Proof

/-- A row that accepts a word fixes the word's `OP` under the row's own `OP` mask. -/
theorem op_and_of_accepts {r : TableRow} {w : CmdWord} (h : r.accepts w = true) :
    w.op &&& r.mask.op = r.pattern.op := by
  rw [TableRow.accepts, beq_iff_eq] at h
  rw [← h, CmdWord.op, CmdWord.op, CmdWord.op, BitVec.extractLsb'_and]

/-- A row that accepts a word fixes the word's `DATA` under the row's own `DATA` mask. -/
theorem data_and_of_accepts {r : TableRow} {w : CmdWord} (h : r.accepts w = true) :
    w.data &&& r.mask.data = r.pattern.data := by
  rw [TableRow.accepts, beq_iff_eq] at h
  rw [← h, CmdWord.data, CmdWord.data, CmdWord.data, BitVec.extractLsb'_and]

/-- A row whose mask is full accepts its pattern and no other word. -/
theorem eq_pattern_of_accepts {r : TableRow} {w : CmdWord} (hm : r.mask = BitVec.allOnes 16)
    (h : r.accepts w = true) : w = r.pattern := by
  rwa [TableRow.accepts, beq_iff_eq, hm, BitVec.and_allOnes] at h

theorem decode_of_write_row {w : CmdWord} (h : (Instr.row (.write 0 0)).accepts w = true) :
    decode w = .command (.write w.sel w.data) := by
  have hop : w.op &&& BitVec.allOnes 2 = 0b01#2 := op_and_of_accepts h
  rw [BitVec.and_allOnes] at hop
  simp [decode, hop]

theorem decode_of_reset_row {w : CmdWord} (h : (Instr.row (.reset 0)).accepts w = true) :
    decode w = .command (.reset w.sel) := by
  have hop : w.op &&& BitVec.allOnes 2 = 0b10#2 := op_and_of_accepts h
  have hdata : w.data &&& BitVec.allOnes 8 = 0#8 := data_and_of_accepts h
  rw [BitVec.and_allOnes] at hop hdata
  simp [decode, hop, hdata]

/-- A word that a row of the opcode table accepts decodes to a command: the WRITE and RESET rows leave operands free, each of
the others is one word. -/
theorem decode_of_wellFormed {w : CmdWord} (h : CmdWord.wellFormed w = true) : ∃ i, decode w = .command i := by
  simp only [CmdWord.wellFormed, opcodeTable, List.any_cons, List.any_nil, Bool.or_eq_true, Bool.or_false] at h
  obtain h | h | h | h | h | h | h | h | h := h
  · exact eq_pattern_of_accepts rfl h ▸ ⟨.nop, by decide⟩
  · exact ⟨_, decode_of_write_row h⟩
  · exact ⟨_, decode_of_reset_row h⟩
  · exact eq_pattern_of_accepts rfl h ▸ ⟨.finishFnv1_32, by decide⟩
  · exact eq_pattern_of_accepts rfl h ▸ ⟨.finishFnv1a_32, by decide⟩
  · exact eq_pattern_of_accepts rfl h ▸ ⟨.finishFnv1_64, by decide⟩
  · exact eq_pattern_of_accepts rfl h ▸ ⟨.finishFnv1a_64, by decide⟩
  · exact eq_pattern_of_accepts rfl h ▸ ⟨.finishFnv1_128, by decide⟩
  · exact eq_pattern_of_accepts rfl h ▸ ⟨.finishFnv1a_128, by decide⟩

/-- A word the decoder rejects matches no row of the opcode table (R70). -/
theorem wellFormed_eq_false_of_illegal {w : CmdWord} {c : IllegalCase} (h : decode w = .illegal c) :
    CmdWord.wellFormed w = false := by
  rw [Bool.eq_false_iff]
  intro hw
  obtain ⟨i, hi⟩ := decode_of_wellFormed hw
  simp [h] at hi

end Sys2Proof
end

section
/-! PROOFS. What a step adds to the record, and the invariant of the record. -/

namespace Sys2Proof.Machine

@[simp] theorem quiet_lawful : PortOut.quiet.lawful = true := rfl

@[simp] theorem response_lawful {n : Nat} (v : BitVec n) : (PortOut.response v).lawful = true := rfl

@[simp] theorem error_lawful : PortOut.error.lawful = true := rfl

/-- What a command adds to the record: one lawful output tuple without a `cmd_err` pulse, and no fault (R150). -/
theorem exec_record (i : Instr) (s : State) :
    ∃ (t : State) (o : PortOut), exec i s = .next t ∧ t.inputs = s.inputs ∧ t.faults = s.faults ∧
      t.observed = s.observed ++ [o] ∧ o.lawful = true ∧ o.cmdErr = false := by
  obtain ⟨t, ht, hin, hf, ⟨-, ho⟩ | ⟨-, -, -, -, ho⟩ | ⟨-, -, -, ho⟩ | ⟨l, -, ho⟩⟩ := exec_answers i s
  · exact ⟨t, _, ht, hin, hf, ho, quiet_lawful, rfl⟩
  · exact ⟨t, _, ht, hin, hf, ho, quiet_lawful, rfl⟩
  · exact ⟨t, _, ht, hin, hf, ho, quiet_lawful, rfl⟩
  · exact ⟨t, _, ht, hin, hf, ho, response_lawful _, rfl⟩

/-- What the clock edge adds to the record: one lawful output tuple, and with a `cmd_err` pulse, and only then, the reserved word
it answers (R11, R151, R152). -/
theorem clockEdge_record (p : PortIn) (s : State) :
    ∃ (t : State) (o : PortOut), clockEdge p s = .next t ∧ t.inputs = s.inputs ∧ t.observed = s.observed ++ [o] ∧
      o.lawful = true ∧
      ((o.cmdErr = false ∧ t.faults = s.faults) ∨
        (o.cmdErr = true ∧ ∃ f : Fault, f.genuine = true ∧ t.faults = s.faults ++ [f])) := by
  obtain ⟨-, e⟩ | ⟨-, -, e⟩ | ⟨-, -, c, hd, e⟩ | ⟨-, -, i, -, e⟩ := clockEdge_cases p s
  · exact ⟨_, _, e, rfl, rfl, quiet_lawful, .inl ⟨rfl, rfl⟩⟩
  · exact ⟨_, _, e, rfl, rfl, quiet_lawful, .inl ⟨rfl, rfl⟩⟩
  · have hw := wellFormed_eq_false_of_illegal hd
    exact ⟨_, _, e, rfl, rfl, error_lawful, .inr ⟨rfl, .illegalCommand p.cmd, by simp [Fault.genuine, hw], rfl⟩⟩
  · obtain ⟨t, o, ht, hin, hf, hobs, ho, hq⟩ := exec_record i s
    exact ⟨t, o, e.trans ht, hin, hobs, ho, .inl ⟨hq, hf⟩⟩

theorem recordLawful_iff (s : State) :
    s.recordLawful = true ↔
      s.observed.all PortOut.lawful = true ∧ s.faults.all Fault.genuine = true ∧
        s.faults.length = s.observed.countP (fun o => o.cmdErr) := by
  simp only [State.recordLawful, Bool.and_eq_true, beq_iff_eq, and_assoc]

/-- The clock edge keeps the record lawful. -/
theorem clockEdge_keeps_recordLawful {p : PortIn} {s t : State} (h : clockEdge p s = .next t)
    (hs : s.recordLawful = true) : t.recordLawful = true := by
  obtain ⟨t', o, e, -, hobs, ho, hcase⟩ := clockEdge_record p s
  obtain rfl : t' = t := by simpa [e] using h
  rw [recordLawful_iff] at hs ⊢
  obtain ⟨hlawful, hgenuine, hcount⟩ := hs
  refine ⟨by simp [hobs, ho, hlawful], ?_⟩
  obtain ⟨hq, hf⟩ | ⟨hq, f, hg, hf⟩ := hcase
  · exact ⟨by rwa [hf], by simp [hobs, hf, hq, hcount]⟩
  · exact ⟨by simp [hf, hg, hgenuine], by simp [hobs, hf, hq, hcount]⟩

/-- Settles O49: the step's tuple is lawful, and a fault is recorded exactly with a `cmd_err` pulse. -/
theorem stepKeepsTheRecordLawful : Obligations.StepKeepsTheRecordLawful := by
  intro s t hs h
  have hs' : s.takeInput.recordLawful = true := hs
  exact clockEdge_keeps_recordLawful h hs'

end Sys2Proof.Machine
end

section
/-! PROOFS. The step function (00_scope.md R10, R12, 60_exceptions.md R154). -/

namespace Sys2Proof.Machine

/-! The clock edge in each case of R154, from every state. -/

theorem clockEdge_rst {p : PortIn} (hr : p.rst = true) (s : State) : clockEdge p s = .next (hardwareReset s) := by
  simp [clockEdge, hr]

theorem clockEdge_idle {p : PortIn} (hr : p.rst = false) (hv : p.cmdValid = false) (s : State) :
    clockEdge p s = .next (idleStep s) := by
  simp [clockEdge, hr, hv]

theorem clockEdge_illegal {p : PortIn} {c : IllegalCase} (hr : p.rst = false) (hv : p.cmdValid = true)
    (hd : decode p.cmd = .illegal c) (s : State) : clockEdge p s = .next (raiseIllegalCommand p.cmd s) := by
  simp [clockEdge, hr, hv, hd]

theorem clockEdge_command {p : PortIn} {i : Instr} (hr : p.rst = false) (hv : p.cmdValid = true)
    (hd : decode p.cmd = .command i) (s : State) : clockEdge p s = exec i s := by
  simp [clockEdge, hr, hv, hd]

/-- A digest of 128 bits fills the response bus (R42). -/
@[simp] theorem onResponseBus_128 (v : BitVec 128) : onResponseBus v = v := BitVec.setWidth_eq v

/-- Settles O38, by the four cases of priority of R154, the last one command by command. -/
theorem stepFunction : Obligations.StepFunction := by
  intro s p
  rw [step_present]
  obtain ⟨h, e⟩ | ⟨h, h', e⟩ | ⟨h, h', c, hd, e⟩ | ⟨h, h', i, hd, e⟩ := clockEdge_cases p s
  · exact ⟨_, _, e, rfl, rfl, fun _ => ⟨read_reset, rfl⟩, by simp [h], by simp [h]⟩
  · exact ⟨_, _, e, rfl, rfl, by simp [h], fun _ _ => ⟨rfl, rfl⟩, by simp [h']⟩
  · exact ⟨_, _, e, rfl, rfl, by simp [h], by simp [h'], fun _ _ => by rw [hd]; exact ⟨rfl, rfl⟩⟩
  · rw [hd]
    cases i with
    | write m b =>
      exact ⟨_, _, e, rfl, rfl, by simp [h], by simp [h'], fun _ _ => ⟨read_afterWrite s.regs m b, rfl⟩⟩
    | reset m =>
      exact ⟨_, _, e, rfl, rfl, by simp [h], by simp [h'], fun _ _ => ⟨read_afterReset s.regs m, rfl⟩⟩
    | finishFnv1_128 | finishFnv1a_128 =>
      exact ⟨_, _, e, rfl, rfl, by simp [h], by simp [h'], fun _ _ => ⟨rfl, by simp [PortOut.response, DigestFile.read]⟩⟩
    | _ => exact ⟨_, _, e, rfl, rfl, by simp [h], by simp [h'], fun _ _ => ⟨rfl, rfl⟩⟩

/-- A state with a tuple listed presents it before the rest of its list. -/
theorem present_of_inputs {s : State} {p : PortIn} {rest : List PortIn} (h : s.inputs = p :: rest) :
    ({ s with inputs := rest } : State).present p = s := by
  cases s
  simp_all [State.present]

/-- Settles O37: the listed tuple is presented, and its clock edge is the command. -/
theorem stepRunsTheDecodedCommand : Obligations.StepRunsTheDecodedCommand := by
  intro s p rest i hin hr hv hd
  rw [← present_of_inputs hin, step_present, clockEdge_command hr hv hd]
  rfl

end Sys2Proof.Machine
end

section
/-! PROOFS. Runs over an infinite sequence of tuples, and their finite parts (00_scope.md R13). -/

namespace Sys2Proof.Machine

/-- No command reads the tuples still listed (R11): listing others carries them through unchanged. -/
theorem exec_inputs {i : Instr} {s t : State} (h : exec i s = .next t) (ls : List PortIn) :
    exec i { s with inputs := ls } = .next { t with inputs := ls } := by
  cases i <;> cases h <;> rfl

/-- No clock edge reads the tuples still listed (R11): listing others carries them through unchanged. -/
theorem clockEdge_inputs {p : PortIn} {s t : State} (h : clockEdge p s = .next t) (ls : List PortIn) :
    clockEdge p { s with inputs := ls } = .next { t with inputs := ls } := by
  obtain ⟨hr, e⟩ | ⟨hr, hv, e⟩ | ⟨hr, hv, c, hd, e⟩ | ⟨hr, hv, i, hd, e⟩ := clockEdge_cases p s
  · cases e.symm.trans h
    exact clockEdge_rst hr _
  · cases e.symm.trans h
    exact clockEdge_idle hr hv _
  · cases e.symm.trans h
    exact clockEdge_illegal hr hv hd _
  · rw [clockEdge_command hr hv hd]
    exact exec_inputs (e.symm.trans h) ls

/-- An infinite run answers a next state after every number of steps, takes no tuple from the list of its start state, and has
observed one output tuple per step, those of `observationAt` in order. -/
theorem stateAfter_answers (ps : Nat → PortIn) (s : State) (n : Nat) :
    ∃ (t : State) (os : List PortOut), stateAfter ps s n = .next t ∧ t.inputs = s.inputs ∧
      t.observed = s.observed ++ os ∧ os.map some = (List.range n).map (observationAt ps s) := by
  induction n with
  | zero => exact ⟨s, [], rfl, rfl, by simp, rfl⟩
  | succ n ih =>
    obtain ⟨t, os, ht, hin, hobs, hos⟩ := ih
    obtain ⟨u, o, hu, huin, huobs, -⟩ := clockEdge_record (ps n) t
    have hrun : stateAfter ps s (n + 1) = .next u := (stateAfter_succ ht).trans hu
    have ho : observationAt ps s n = some o := by simp [observationAt, hrun, huobs]
    exact ⟨u, os ++ [o], hrun, huin.trans hin, by simp [huobs, hobs], by simp [List.range_succ, hos, ho]⟩

/-- The first `n` steps of an infinite run see the first `n` tuples only. -/
theorem stateAfter_congr {ps qs : Nat → PortIn} (s : State) (n : Nat) (h : ∀ k < n, ps k = qs k) :
    stateAfter ps s n = stateAfter qs s n := by
  induction n with
  | zero => rfl
  | succ n ih =>
    obtain ⟨t, -, ht, -⟩ := stateAfter_answers ps s n
    have hq : stateAfter qs s n = .next t := (ih fun k hk => h k (by omega)).symm.trans ht
    rw [stateAfter_succ ht, stateAfter_succ hq, h n (by omega)]

theorem observationAt_congr {ps qs : Nat → PortIn} (s : State) (n : Nat) (h : ∀ k ≤ n, ps k = qs k) :
    observationAt ps s n = observationAt qs s n := by
  rw [observationAt, observationAt, stateAfter_congr s (n + 1) fun k hk => h k (by omega)]

/-- Settles O54: by induction on the number of steps, with one clock edge a step. -/
theorem infiniteRunNeverHalts : Obligations.InfiniteRunNeverHalts := by
  intro ps s n
  obtain ⟨t, os, ht, -, hobs, hos⟩ := stateAfter_answers ps s n
  exact ⟨⟨t, os, ht, hobs, hos⟩, fun qs h => observationAt_congr s n h⟩

/-- One step more at the end of a run. -/
theorem run_succ_last {s t : State} {n : Nat} (h : run n s = .next t) : run (n + 1) s = step t := by
  induction n generalizing s with
  | zero =>
    cases h
    cases ht : step t <;> simp [run, ht]
  | succ n ih =>
    cases hs : step s with
    | next u =>
      rw [run_succ n hs] at h
      rw [run_succ (n + 1) hs, ih h]
    | fault f => simp [run, hs] at h
    | refused r => simp [run, hs] at h

/-- The run over a list that starts with the first `n` tuples of the sequence ends after `n` steps where the infinite run is
then, with the rest of the list still to be presented. -/
theorem run_of_stateAfter {ps : Nat → PortIn} {s t : State} {n : Nat} (h : stateAfter ps s n = .next t)
    (rest : List PortIn) :
    run n { s with inputs := (List.range n).map ps ++ rest } = .next { t with inputs := rest } := by
  induction n generalizing t rest with
  | zero => cases h; rfl
  | succ n ih =>
    obtain ⟨u, -, hu, -⟩ := stateAfter_answers ps s n
    rw [stateAfter_succ hu] at h
    have hlist : (List.range (n + 1)).map ps ++ rest = (List.range n).map ps ++ ps n :: rest := by
      simp [List.range_succ]
    rw [hlist, run_succ_last (ih hu (ps n :: rest))]
    exact clockEdge_inputs h rest

/-- Settles O55: the finite run ends in the infinite run's state, but for the tuples listed there. -/
theorem finitePartsOfInfiniteRuns : Obligations.FinitePartsOfInfiniteRuns := by
  intro ps s n
  obtain ⟨t, -, ht, hin, -⟩ := stateAfter_answers ps s n
  have hrun := run_of_stateAfter ht []
  rw [List.append_nil] at hrun
  exact ⟨t, _, ht, hrun, rfl, rfl, rfl, hin, rfl⟩

end Sys2Proof.Machine
end

section
/-! PROOFS. The constants and the lane table (00_scope.md R2, R5 to R7). -/

namespace Sys2Proof.Machine

/-- Settles O1: closed numerals, compared. -/
theorem constantsInDecimalAndHexadecimal : Obligations.ConstantsInDecimalAndHexadecimal := by
  unfold Obligations.ConstantsInDecimalAndHexadecimal
  decide

@[simp] theorem laneOfNumber_laneNumber (l : Lane) : laneOfNumber (laneNumber l) = some l := by
  cases l <;> rfl

/-- Each lane stands in the lane table at its own index (R2). -/
theorem laneNumber_getElem_lanes : ∀ n : Fin lanes.length, laneNumber lanes[n] = n := by decide

theorem laneOfNumber_eq_some_iff (n : Nat) (l : Lane) : laneOfNumber n = some l ↔ n = laneNumber l := by
  constructor
  · intro h
    obtain ⟨hn, rfl⟩ := List.getElem?_eq_some_iff.mp h
    exact (laneNumber_getElem_lanes ⟨n, hn⟩).symm
  · rintro rfl
    exact laneOfNumber_laneNumber l

theorem laneOfNumber_eq_none_iff (n : Nat) : laneOfNumber n = none ↔ 6 ≤ n :=
  List.getElem?_eq_none_iff

/-- Settles O2: the variant and the width lane by lane, the numbers by the lane table. -/
theorem laneNumberGivesVariantAndWidth : Obligations.LaneNumberGivesVariantAndWidth := by
  intro l
  refine ⟨?variantFnv1, ?variantFnv1a, ?width, fun n => laneOfNumber_eq_some_iff n l, laneOfNumber_eq_none_iff⟩
  case variantFnv1 => cases l <;> decide
  case variantFnv1a => cases l <;> decide
  case width => cases l <;> decide

end Sys2Proof.Machine
end

section
/-! PROOFS. One lane over a step and over a run: its register depends on itself and on the tuples alone (10_state.md R27,
20_memory.md R48), and holds the hash of the bytes since its last restart (40_datapath.md R89). -/

namespace Sys2Proof.Machine

/-- Settles O44: each register of `State.reset` is the offset basis of its width, whose decimal value O1 gives. -/
theorem resetStateRegisters : Obligations.ResetStateRegisters := by
  obtain ⟨h32, -, -, -, -, h64, -, -, -, -, h128, -⟩ := constantsInDecimalAndHexadecimal
  exact ⟨h32, h32, h64, h64, h128, h128, rfl, rfl, rfl⟩

/-- What the tuple `p` makes of the register of lane `l` when it holds `r` (R27 (d)); `clockEdge_lane` says that the engine
does so. -/
def laneAfter (l : Lane) (r : BitVec l.bits) (p : PortIn) : BitVec l.bits :=
  if p.restarts l then offsetBasis l else foldBytes l r (p.writes l).toList

/-- A state with a tuple listed steps by that tuple's clock edge, the rest of the list still to come (R10). -/
theorem step_of_inputs {s : State} {p : PortIn} {rest : List PortIn} (h : s.inputs = p :: rest) :
    step s = clockEdge p { s with inputs := rest } :=
  congrArg step (present_of_inputs h).symm

/-- A tuple that has a command performed is that command's step (R12). -/
theorem clockEdge_of_performs {p : PortIn} {i : Instr} (h : p.performs = some i) (s : State) :
    clockEdge p s = exec i s := by
  obtain ⟨hr, -⟩ | ⟨hr, hv, -⟩ | ⟨hr, hv, c, hd, -⟩ | ⟨hr, hv, j, hd, e⟩ := clockEdge_cases p s
  · simp [PortIn.performs, hr] at h
  · simp [PortIn.performs, hv] at h
  · simp [PortIn.performs, hd] at h
  · obtain rfl : j = i := by simpa [PortIn.performs, hr, hv, hd] using h
    exact e

/-- FINISH of a lane, said once for all six lanes (R120). -/
theorem exec_finishOfLane (l : Lane) (s : State) : exec (finishOfLane l) s = .next (s.finish l) := by
  cases l <;> rfl

/-- A step that finishes lane `l` drives that lane's register (R120). -/
theorem output_of_finish {l : Lane} {p : PortIn} {s t : State} {o : PortOut} (h : clockEdge p s = .next t)
    (ho : t.observed = s.observed ++ [o]) (hp : p.performs = some (finishOfLane l)) :
    o = PortOut.response (s.regs.read l) := by
  rw [clockEdge_of_performs hp, exec_finishOfLane] at h
  cases h
  simpa using ho.symm

/-- Settles O48: both steps are the clock edge with the same tuple, which makes of the lane's register what `laneAfter` makes of
it and drives it in a FINISH of the lane. -/
theorem laneSeesOnlyItsOwnRegister : Obligations.LaneSeesOnlyItsOwnRegister := by
  intro l s s' hin hreg
  have hnext : s'.nextInput = s.nextInput := by rw [State.nextInput, State.nextInput, hin]
  obtain ⟨t, o, ht, htin, hobs, hlane⟩ := clockEdge_lane l s.nextInput s.takeInput
  obtain ⟨t', o', ht', htin', hobs', hlane'⟩ := clockEdge_lane l s.nextInput s'.takeInput
  refine ⟨t, t', o, o', ht, by rw [step, hnext, ht'], by simp [htin, htin', hin], by simp [hlane, hlane', hreg], hobs, hobs', ?_⟩
  intro hp
  rw [output_of_finish ht hobs hp, output_of_finish ht' hobs' hp, takeInput_regs, takeInput_regs, hreg]

/-- Over the tuples listed first, a run takes them one after the other and does to one lane's register what each of them does
to it (R13, R48). -/
theorem run_lane (l : Lane) (ps rest : List PortIn) {s : State} (h : s.inputs = ps ++ rest) :
    ∃ t : State, run ps.length s = .next t ∧ t.inputs = rest ∧
      t.regs.read l = ps.foldl (laneAfter l) (s.regs.read l) := by
  induction ps generalizing s with
  | nil => exact ⟨s, rfl, h, rfl⟩
  | cons p ps ih =>
    obtain ⟨u, -, hu, hin, -, hlane⟩ := clockEdge_lane l p { s with inputs := ps ++ rest }
    obtain ⟨t, ht, htin, hreg⟩ := ih hin
    exact ⟨t, (run_succ _ ((step_of_inputs h).trans hu)).trans ht, htin, by rw [hreg, hlane]; rfl⟩

theorem foldBytes_append (l : Lane) (r : BitVec l.bits) (as bs : List Byte) :
    foldBytes l r (as ++ bs) = foldBytes l (foldBytes l r as) bs := by
  induction as generalizing r with
  | nil => rfl
  | cons a as ih => exact ih _

/-- A tuple takes the hash of the bytes since the lane's last restart to the hash of those bytes after it (R89). -/
theorem laneAfter_hashOf (l : Lane) (bs : List Byte) (p : PortIn) :
    laneAfter l (hashOf l bs) p = hashOf l (bytesSinceRestart l bs p) := by
  rw [laneAfter, bytesSinceRestart]
  split
  · rfl
  · exact (foldBytes_append l _ bs _).symm

/-- Settles O51: `laneAfter_hashOf` for one tuple, and for a run its fold over the tuples. -/
theorem stepExtendsTheHashedBytes : Obligations.StepExtendsTheHashedBytes := by
  constructor
  · intro l bs s p h
    obtain ⟨t, -, ht, -, -, hlane⟩ := clockEdge_lane l p s
    rw [h] at hlane
    exact ⟨t, ht, hlane.trans (laneAfter_hashOf l bs p)⟩
  · intro l bs ps rest s hin h
    obtain ⟨t, ht, htin, hreg⟩ := run_lane l ps rest hin
    rw [h, List.foldl_hom (hashOf l) (laneAfter_hashOf l)] at hreg
    exact ⟨t, ht, htin, hreg⟩

end Sys2Proof.Machine
end

section
/-! PROOFS. The decoder and the encoder: the fields of a word as numbers (30_encoding.md R61), what the decoder can answer (R70,
R72), and that it inverts the encoder (R63 to R66). -/

namespace Sys2Proof.Machine

theorem toNat_eq_zero_iff {n : Nat} (x : BitVec n) : x.toNat = 0 ↔ x = 0#n := by
  simp [← BitVec.toNat_inj]

/-! The fields by arithmetic on the word's number (R61). -/

theorem toNat_op (w : CmdWord) : w.op.toNat = w.toNat / 2 ^ 14 := by
  have hw := w.isLt
  rw [CmdWord.op, BitVec.extractLsb'_toNat, Nat.shiftRight_eq_div_pow]
  omega

theorem toNat_sel (w : CmdWord) : w.sel.toNat = w.toNat / 2 ^ 8 % 2 ^ 6 := by
  rw [CmdWord.sel, BitVec.extractLsb'_toNat, Nat.shiftRight_eq_div_pow]

theorem toNat_data (w : CmdWord) : w.data.toNat = w.toNat % 2 ^ 8 := by
  rw [CmdWord.data, BitVec.extractLsb'_toNat, Nat.shiftRight_zero]

/-- The word with given fields is the number with these digits (R61). -/
theorem toNat_ofFields (o : BitVec 2) (m : LaneMask) (b : Byte) :
    (CmdWord.ofFields o m b).toNat = 2 ^ 14 * o.toNat + 2 ^ 8 * m.toNat + b.toNat := by
  have ho := toNat_op (CmdWord.ofFields o m b)
  have hm := toNat_sel (CmdWord.ofFields o m b)
  have hb := toNat_data (CmdWord.ofFields o m b)
  rw [op_ofFields] at ho
  rw [sel_ofFields] at hm
  rw [data_ofFields] at hb
  omega

/-! The two parts of `SEL` in the F-format (R66). -/

theorem toNat_finishZeros (w : CmdWord) : w.finishZeros.toNat = w.sel.toNat / 2 ^ 3 := by
  rw [toNat_sel, CmdWord.finishZeros, BitVec.extractLsb'_toNat, Nat.shiftRight_eq_div_pow]
  omega

theorem toNat_laneIndex (w : CmdWord) : w.laneIndex.toNat = w.sel.toNat % 2 ^ 3 := by
  rw [toNat_sel, CmdWord.laneIndex, BitVec.extractLsb'_toNat, Nat.shiftRight_eq_div_pow]
  omega

@[simp] theorem laneNumber_inj {l k : Lane} : laneNumber l = laneNumber k ↔ l = k :=
  ⟨fun h => by simpa using congrArg laneOfNumber h, congrArg laneNumber⟩

/-- The FINISH of a lane index is the FINISH of the lane of that number (R67). -/
theorem finishOfIndex_eq : ∀ k : LaneIndex, finishOfIndex k = (laneOfNumber k.toNat).map finishOfLane := by decide

/-- The words of the six FINISH rows, in one (R66). -/
theorem encode_finishOfLane (l : Lane) :
    encode (finishOfLane l) = CmdWord.ofFields 0b11#2 (BitVec.ofNat 6 (laneNumber l)) 0#8 := by
  cases l <;> rfl

/-- Settles O4, command by command: the decoder reads back the fields the encoder wrote. -/
theorem decodeOfEncode : Obligations.DecodeOfEncode := by
  intro i
  cases i with
  | nop => decide
  | write m b => simp [encode, decode]
  | reset m => simp [encode, decode]
  | _ => decide

theorem laneNumber_le (l : Lane) : laneNumber l ≤ 5 := by
  cases l <;> decide

theorem toNat_laneNumber (l : Lane) : (BitVec.ofNat 6 (laneNumber l)).toNat = laneNumber l :=
  Nat.mod_eq_of_lt (Nat.lt_of_le_of_lt (laneNumber_le l) (by decide))

/-- Settles O3: the fields of each format as digits. -/
theorem commandWordsAsNumbers : Obligations.CommandWordsAsNumbers := by
  refine ⟨rfl, fun m b => ?write, fun m => ?reset, fun l => ?finish⟩
  case write => simp [encode, toNat_ofFields]
  case reset => simp [encode, toNat_ofFields]
  case finish => rw [encode_finishOfLane, toNat_ofFields, toNat_laneNumber]; rfl

/-- The four values of `OP` (R62). -/
theorem op_cases (w : CmdWord) : w.op = 0b00#2 ∨ w.op = 0b01#2 ∨ w.op = 0b10#2 ∨ w.op = 0b11#2 := by
  generalize w.op = o
  revert o
  decide

/-- A lane index above 5 is 6 or 7 and names no lane, any other is the number of one (R67). -/
theorem laneIndex_cases (k : LaneIndex) :
    ((k.toNat = 6 ∨ k.toNat = 7) ∧ finishOfIndex k = none) ∨
      ∃ l : Lane, k.toNat = laneNumber l ∧ finishOfIndex k = some (finishOfLane l) := by
  rw [finishOfIndex_eq]
  cases h : laneOfNumber k.toNat with
  | none =>
    have hk := k.isLt
    rw [laneOfNumber_eq_none_iff] at h
    exact .inl ⟨by omega, rfl⟩
  | some l => exact .inr ⟨l, (laneOfNumber_eq_some_iff _ l).mp h, rfl⟩

/-- Inversion of the decoder: the nine answers it can give, each under its condition on the fields (R70, R72). -/
theorem decode_cases (w : CmdWord) :
    (w.op = 0b00#2 ∧ (w.sel = 0#6 ∧ w.data = 0#8) ∧ decode w = .command .nop) ∨
    (w.op = 0b00#2 ∧ ¬ (w.sel = 0#6 ∧ w.data = 0#8) ∧ decode w = .illegal .malformedNop) ∨
    (w.op = 0b01#2 ∧ decode w = .command (.write w.sel w.data)) ∨
    (w.op = 0b10#2 ∧ w.data = 0#8 ∧ decode w = .command (.reset w.sel)) ∨
    (w.op = 0b10#2 ∧ w.data ≠ 0#8 ∧ decode w = .illegal .malformedReset) ∨
    (w.op = 0b11#2 ∧ w.finishZeros ≠ 0#3 ∧ decode w = .illegal .malformedFinish) ∨
    (w.op = 0b11#2 ∧ w.finishZeros = 0#3 ∧ (w.laneIndex.toNat = 6 ∨ w.laneIndex.toNat = 7) ∧
      decode w = .illegal .noSuchLane) ∨
    (w.op = 0b11#2 ∧ w.finishZeros = 0#3 ∧ ∃ l : Lane, w.laneIndex.toNat = laneNumber l ∧
      ((w.data = 0#8 ∧ decode w = .command (finishOfLane l)) ∨
        (w.data ≠ 0#8 ∧ decode w = .illegal .finishWithData))) := by
  obtain h | h | h | h := op_cases w
  · by_cases h0 : w.sel = 0#6 ∧ w.data = 0#8 <;> simp [decode, h, h0]
  · simp [decode, h]
  · by_cases h0 : w.data = 0#8 <;> simp [decode, h, h0]
  · by_cases hz : w.finishZeros = 0#3
    · obtain ⟨hk, hf⟩ | ⟨l, hk, hf⟩ := laneIndex_cases w.laneIndex
      · simp [decode, decodeFinish, h, hz, hk, hf]
      · by_cases h0 : w.data = 0#8 <;> simp [decode, decodeFinish, h, hz, hk, hf, h0]
    · simp [decode, decodeFinish, h, hz]

/-- Settles O5: each command the decoder can answer has the word's own fields in its word. -/
theorem encodeOfDecode : Obligations.EncodeOfDecode := by
  intro w i hd
  rw [← ofFields_fields w]
  obtain ⟨h, ⟨hs, h0⟩, e⟩ | ⟨-, -, e⟩ | ⟨h, e⟩ | ⟨h, h0, e⟩ | ⟨-, -, e⟩ | ⟨-, -, e⟩ | ⟨-, -, -, e⟩ |
    ⟨h, hz, l, hk, ⟨h0, e⟩ | ⟨-, e⟩⟩ := decode_cases w <;> cases e.symm.trans hd
  · rw [h, hs, h0]; rfl
  · rw [h]; rfl
  · rw [h, h0]; rfl
  · have hs : w.sel = BitVec.ofNat 6 (laneNumber l) := by
      apply BitVec.eq_of_toNat_eq
      rw [← toNat_eq_zero_iff, toNat_finishZeros] at hz
      rw [toNat_laneIndex] at hk
      rw [toNat_laneNumber]
      omega
    rw [h, hs, h0, encode_finishOfLane]

/-- The word of every command is legal: it matches the command's own row of the opcode table (R70). -/
theorem wellFormed_encode (i : Instr) : CmdWord.wellFormed (encode i) = true := by
  have hrow : Laws.OwnRow.Statement i := by
    cases i with
    | nop => exact Laws.OwnRow.nop
    | write m b => exact Laws.OwnRow.write m b
    | reset m => exact Laws.OwnRow.reset m
    | finishFnv1_32 => exact Laws.OwnRow.finishFnv1_32
    | finishFnv1a_32 => exact Laws.OwnRow.finishFnv1a_32
    | finishFnv1_64 => exact Laws.OwnRow.finishFnv1_64
    | finishFnv1a_64 => exact Laws.OwnRow.finishFnv1a_64
    | finishFnv1_128 => exact Laws.OwnRow.finishFnv1_128
    | finishFnv1a_128 => exact Laws.OwnRow.finishFnv1a_128
  obtain ⟨-, haccepts, hmem⟩ := hrow
  exact List.any_eq_true.mpr ⟨_, hmem, haccepts⟩

/-- Settles O6: a decoded word is the word of a command, and a word of the table was shown to decode. -/
theorem decoderAcceptsExactlyTheTable : Obligations.DecoderAcceptsExactlyTheTable := by
  intro w
  refine ⟨fun ⟨i, hd⟩ => ?_, decode_of_wellFormed⟩
  rw [← encodeOfDecode w i hd]
  exact wellFormed_encode i

/-- Settles O7: the fields by arithmetic are the decoder's fields, and each of its answers is the one the clause of its `OP`
gives. -/
theorem decodeByFields : Obligations.DecodeByFields := by
  intro w
  dsimp only
  rw [← toNat_op, ← toNat_sel, ← toNat_data, ← toNat_finishZeros, ← toNat_laneIndex, BitVec.ofNat_toNat, BitVec.ofNat_toNat,
    BitVec.setWidth_eq, BitVec.setWidth_eq]
  simp only [toNat_eq_zero_iff]
  obtain ⟨h, hn, e⟩ | ⟨h, hn, e⟩ | ⟨h, e⟩ | ⟨h, h0, e⟩ | ⟨h, h0, e⟩ | ⟨h, hz, e⟩ | ⟨h, hz, hk, e⟩ |
    ⟨h, hz, l, hk, ⟨h0, e⟩ | ⟨h0, e⟩⟩ := decode_cases w
  · simp [h, hn, e]
  · simp [h, hn, e]
  · simp [h, e]
  · simp [h, h0, e]
  · simp [h, h0, e]
  · simp [h, hz, e]
  · have h5 : ¬ w.laneIndex.toNat ≤ 5 := by omega
    simp [h, h5, e]
  · simp [h, hz, hk, h0, e, laneNumber_le]
  · simp [h, h0, e]

/-- Settles O8: each of the decoder's answers meets the condition of its own case and of no other. -/
theorem reservedWordsByCase : Obligations.ReservedWordsByCase := by
  intro w
  have hlow : w.extractLsb' 0 14 = 0#14 ↔ w.sel = 0#6 ∧ w.data = 0#8 := by
    rw [← toNat_eq_zero_iff, ← toNat_eq_zero_iff, ← toNat_eq_zero_iff, BitVec.extractLsb'_toNat, Nat.shiftRight_zero,
      toNat_sel, toNat_data]
    omega
  dsimp only
  rw [← CmdWord.op, ← CmdWord.data, ← CmdWord.finishZeros, ← CmdWord.laneIndex, ne_eq, hlow]
  obtain ⟨h, hn, e⟩ | ⟨h, hn, e⟩ | ⟨h, e⟩ | ⟨h, h0, e⟩ | ⟨h, h0, e⟩ | ⟨h, hz, e⟩ | ⟨h, hz, hk, e⟩ |
    ⟨h, hz, l, hk, ⟨h0, e⟩ | ⟨h0, e⟩⟩ := decode_cases w
  · simp [h, hn, e]
  · simp [h, hn, e]
  · simp [h, e]
  · simp [h, h0, e]
  · simp [h, h0, e]
  · simp [h, hz, e]
  · have h5 : ¬ w.laneIndex.toNat ≤ 5 := by omega
    simp [h, hz, hk, h5, e]
  · have h6 : ¬ (laneNumber l = 6 ∨ laneNumber l = 7) := by have := laneNumber_le l; omega
    simp [h, hz, hk, h6, h0, e]
  · have h6 : ¬ (laneNumber l = 6 ∨ laneNumber l = 7) := by have := laneNumber_le l; omega
    simp [h, hz, hk, h6, h0, e, laneNumber_le]

end Sys2Proof.Machine
end

section
/-! PROOFS. What assembly lines stand for (30_encoding.md R74 to R76). -/

namespace Sys2Proof.Machine

theorem allSome_map_some {α : Type} (as : List α) : allSome (as.map some) = some as := by
  induction as with
  | nil => rfl
  | cons a as ih => simp [allSome, ih]

/-- A line whose expansion has a tuple for each of its lines stands for those tuples. -/
theorem tuples?_of_expand {line : AsmLine} {ps : List PortIn} (h : line.expand.map AsmLine.tuple? = ps.map some) :
    line.tuples? = some ps := by
  rw [AsmLine.tuples?, h, allSome_map_some]

@[simp] theorem byteOfNumber_toNat (b : Byte) : byteOfNumber b.toNat = some b := by
  simp [byteOfNumber, b.isLt]

@[simp] theorem mask?_masked_toNat (m : LaneMask) : (LanesRef.masked m.toNat).mask? = some m := by
  simp [LanesRef.mask?, m.isLt]

/-- The brace list of one lane is the mask of that lane (R74). -/
theorem mask?_listed_one {r : LaneRef} {l : Lane} (h : r.lane? = some l) :
    (LanesRef.listed [r]).mask? = some (maskOfLane l) := by
  simp [LanesRef.mask?, h, allSome, maskOfLanes]

/-! The tuple of each command line (R75). -/

theorem tuple?_write {ls : LanesRef} {m : LaneMask} (h : ls.mask? = some m) (b : Byte) :
    (AsmLine.write ls b.toNat).tuple? = some (PortIn.command (encode (.write m b))) := by
  simp [AsmLine.tuple?, AsmLine.command?, h]

theorem tuple?_reset {ls : LanesRef} {m : LaneMask} (h : ls.mask? = some m) :
    (AsmLine.reset ls).tuple? = some (PortIn.command (encode (.reset m))) := by
  simp [AsmLine.tuple?, AsmLine.command?, h]

theorem tuple?_finish {r : LaneRef} {l : Lane} (h : r.lane? = some l) :
    (AsmLine.finish r).tuple? = some (PortIn.command (encode (finishOfLane l))) := by
  simp [AsmLine.tuple?, AsmLine.command?, h]

/-- The WRITE lines of a byte sequence, one per byte (R76). -/
theorem tuples_of_writes {ls : LanesRef} {m : LaneMask} (h : ls.mask? = some m) (bs : List Byte) :
    ((bs.map BitVec.toNat).map (AsmLine.write ls)).map AsmLine.tuple? =
      (bs.map fun b => PortIn.command (encode (.write m b))).map some := by
  simp [tuple?_write h]

/-- Settles O12: the tuples of each expansion, line by line. -/
theorem pseudoInstructionExpansions : Obligations.PseudoInstructionExpansions := by
  refine ⟨by decide, by decide, fun ls m bs h => ⟨?writeString, ?writeBytes⟩, fun r l bs h => ?hash⟩
  case writeString => exact tuples?_of_expand (tuples_of_writes h bs)
  case writeBytes => exact tuples?_of_expand (tuples_of_writes h bs)
  case hash =>
    have hm := mask?_listed_one h
    apply tuples?_of_expand
    rw [AsmLine.expand, List.map_append, List.map_cons, tuples_of_writes hm, tuple?_reset hm]
    simp [tuple?_finish h]

end Sys2Proof.Machine
end

section
/-! PROOFS. Reading the line a word prints as (30_encoding.md R77). -/

namespace Sys2Proof.Machine

/-! Numbers as they are printed. -/

/-- A printed hexadecimal digit is read back (R77). -/
theorem digitValue_hexDigit : ∀ d < 16, digitValue (hexDigit d) = some d := by decide

theorem digitsValue_hexDigit (n acc : Nat) (cs : Text) :
    digitsValue 16 acc (hexDigit (n % 16) :: cs) = digitsValue 16 (acc * 16 + n % 16) cs := by
  have hn : n % 16 < 16 := Nat.mod_lt n (by decide)
  simp [digitsValue, digitValue_hexDigit _ hn, hn]

theorem numberOfText_hexTwo {n : Nat} (hn : n < 256) : numberOfText (hexTwo n) = some n := by
  rw [hexTwo, numberOfText, digitsValue_hexDigit, digitsValue_hexDigit, digitsValue, Option.some_inj]
  omega

theorem numberOfText_hexFour {n : Nat} (hn : n < 65536) : numberOfText (hexFour n) = some n := by
  rw [hexFour, numberOfText, digitsValue_hexDigit, digitsValue_hexDigit, digitsValue_hexDigit, digitsValue_hexDigit,
    digitsValue, Option.some_inj]
  omega

/-! The pieces of a printed line. -/

/-- The character stands in a word: it neither separates pieces nor opens one. -/
def inWord (c : Char) : Bool :=
  !(c = ';' ∨ c = ' ' ∨ c = '\t' ∨ c = ',' ∨ c = Char.ofNat 0x7b ∨ c = Char.ofNat 0x7d ∨ c = Char.ofNat 0x27 ∨
    c = Char.ofNat 0x22)

theorem lex_inWord {c : Char} (hc : inWord c = true) (acc cs : Text) :
    lex (.words acc) (c :: cs) = lex (.words (c :: acc)) cs := by
  simp [inWord] at hc
  simp [lex, hc]

/-- The reader gathers a word whole, whatever follows it. -/
theorem lex_word_append {w : Text} (hw : w.all inWord = true) (acc cs : Text) :
    lex (.words acc) (w ++ cs) = lex (.words (w.reverse ++ acc)) cs := by
  induction w generalizing acc with
  | nil => rfl
  | cons c w ih =>
    rw [List.all_cons, Bool.and_eq_true] at hw
    obtain ⟨hc, hw⟩ := hw
    rw [List.cons_append, lex_inWord hc, ih hw]
    simp

/-- White space with no word before it is skipped. -/
theorem lex_space (cs : Text) : lex (.words []) (' ' :: cs) = lex (.words []) cs := by
  have hflush : flush [] = id := rfl
  simp [lex, hflush]

/-! A word at the end of the line, before white space and before a comma. -/

section
variable {w : Text} (hw : w.all inWord = true) (hne : w ≠ []) (cs : Text)
include hw hne

theorem lex_word : lex (.words []) w = some [.word w] := by
  have h := lex_word_append hw [] []
  rw [List.append_nil] at h
  simp [h, lex, flush, hne]

theorem lex_word_space :
    lex (.words []) (w ++ ' ' :: cs) = (lex (.words []) cs).map (fun ts => .word w :: ts) := by
  have hflush : flush w.reverse = fun ts => .word w :: ts := funext fun ts => by simp [flush, hne]
  rw [lex_word_append hw]
  simp [lex, hflush]

theorem lex_word_comma :
    lex (.words []) (w ++ ',' :: cs) = (lex (.words []) cs).map (fun ts => .word w :: .comma :: ts) := by
  rw [lex_word_append hw]
  simp [lex, flush, hne]

end

theorem inWord_hexDigit (n : Nat) : inWord (hexDigit (n % 16)) = true := by
  have h : ∀ d < 16, inWord (hexDigit d) = true := by decide
  exact h _ (Nat.mod_lt n (by decide))

theorem inWord_hexTwo (n : Nat) : (hexTwo n).all inWord = true := by
  simp only [hexTwo, List.all_cons, inWord_hexDigit]
  decide

theorem inWord_hexFour (n : Nat) : (hexFour n).all inWord = true := by
  simp only [hexFour, List.all_cons, inWord_hexDigit]
  decide

/-- A mask as it is printed, `#0x` and two digits, is one word. -/
theorem inWord_mask (n : Nat) : ('#' :: hexTwo n).all inWord = true := by
  rw [List.all_cons, inWord_hexTwo]
  decide

/-! The line read from each printed form. -/

/-- A line of a mnemonic, a space and more reads as the mnemonic with the pieces of the rest as its operands. -/
theorem readLine_mnemonic {w cs : Text} {ts : List Token} (hw : w.all inWord = true) (hne : w ≠ [])
    (h : lex (.words []) cs = some ts) : readLine (w ++ ' ' :: cs) = readOperands w ts := by
  rw [readLine, lex_word_space hw hne, h, Option.map_some]

theorem readLine_write (m : LaneMask) (b : Byte) :
    readLine (printInstr (.write m b)) = some (.write (.masked m.toNat) b.toNat) := by
  have hm : numberOfText (hexTwo m.toNat) = some m.toNat := numberOfText_hexTwo (by omega)
  have hb : numberOfText (hexTwo b.toNat) = some b.toNat := numberOfText_hexTwo b.isLt
  have hlex : lex (.words []) (('#' :: hexTwo m.toNat) ++ ',' :: ' ' :: hexTwo b.toNat) =
      some [.word ('#' :: hexTwo m.toNat), .comma, .word (hexTwo b.toNat)] := by
    rw [lex_word_comma (inWord_mask _) (List.cons_ne_nil _ _), lex_space,
      lex_word (inWord_hexTwo _) (List.cons_ne_nil _ _), Option.map_some]
  calc readLine (printInstr (.write m b))
    _ = readOperands wordWrite [.word ('#' :: hexTwo m.toNat), .comma, .word (hexTwo b.toNat)] :=
      readLine_mnemonic (w := wordWrite) (by decide) (by decide) hlex
    _ = some (.write (.masked m.toNat) b.toNat) := by
      simp [readOperands, readLanesThen, readLanes, readByte, hm, hb]

theorem readLine_reset (m : LaneMask) : readLine (printInstr (.reset m)) = some (.reset (.masked m.toNat)) := by
  have hm : numberOfText (hexTwo m.toNat) = some m.toNat := numberOfText_hexTwo (by omega)
  have hmnemonic : wordReset ≠ wordWrite := by decide
  calc readLine (printInstr (.reset m))
    _ = readOperands wordReset [.word ('#' :: hexTwo m.toNat)] :=
      readLine_mnemonic (w := wordReset) (by decide) (by decide) (lex_word (inWord_mask _) (List.cons_ne_nil _ _))
    _ = some (.reset (.masked m.toNat)) := by simp [readOperands, hmnemonic, readLanes, hm]

theorem readLine_illegal (w : CmdWord) :
    readLine (wordIllegal ++ [' '] ++ hexFour w.toNat) = some (.illegal w.toNat) := by
  have hw : numberOfText (hexFour w.toNat) = some w.toNat := numberOfText_hexFour w.isLt
  have hmnemonic : wordIllegal ≠ wordWrite ∧ wordIllegal ≠ wordReset ∧ wordIllegal ≠ wordFinish := by decide
  calc readLine (wordIllegal ++ [' '] ++ hexFour w.toNat)
    _ = readOperands wordIllegal [.word (hexFour w.toNat)] :=
      readLine_mnemonic (w := wordIllegal) (by decide) (by decide) (lex_word (inWord_hexFour _) (List.cons_ne_nil _ _))
    _ = some (.illegal w.toNat) := by simp [readOperands, hmnemonic, hw]

/-- A line that is its own expansion and has a tuple reads as that tuple. -/
theorem assembleLine_of_readLine {t : Text} {line : AsmLine} {p : PortIn} (h : readLine t = some line)
    (he : line.expand = [line]) (hp : line.tuple? = some p) : assembleLine t = some [p] := by
  rw [assembleLine, h, Option.bind_some]
  exact tuples?_of_expand (by simp [he, hp])

/-- The line a command prints as stands for the command's word (R77). -/
theorem assembleLine_printInstr (i : Instr) : assembleLine (printInstr i) = some [PortIn.command (encode i)] := by
  cases i with
  | write m b => exact assembleLine_of_readLine (readLine_write m b) rfl (tuple?_write (mask?_masked_toNat m) b)
  | reset m => exact assembleLine_of_readLine (readLine_reset m) rfl (tuple?_reset (mask?_masked_toNat m))
  | _ => decide

/-- An `.illegal` line of a reserved word presents the word (R77). -/
theorem tuple?_illegal {w : CmdWord} {c : IllegalCase} (h : decode w = .illegal c) :
    (AsmLine.illegal w.toNat).tuple? = some (PortIn.command w) := by
  simp [AsmLine.tuple?, illegalWord?, h, w.isLt]

/-- Settles O11: a command's line stands for the command's word, which is the word it was decoded from; a reserved word's line
holds the word itself. -/
theorem assemblingTheDisassemblyGivesTheWord : Obligations.AssemblingTheDisassemblyGivesTheWord := by
  intro w
  unfold disassemble
  cases hd : decode w with
  | command i =>
    have hi := encodeOfDecode w i hd
    rw [← hi]
    exact assembleLine_printInstr i
  | illegal c => exact assembleLine_of_readLine (readLine_illegal w) rfl (tuple?_illegal hd)

end Sys2Proof.Machine
end

section
/-! PROOFS. How many of the 65536 words the decoder answers with what (30_encoding.md R70). -/

namespace Sys2Proof.Machine

/-- Outside WRITE the decoder looks at `DATA` only for whether it is 0 (R70, R72). -/
theorem decode_congr {v w : CmdWord} (hop : v.op = w.op) (hsel : v.sel = w.sel) (hdata : v.data = 0#8 ↔ w.data = 0#8)
    (hwrite : w.op ≠ 0b01#2) : decode v = decode w := by
  have hzeros : v.finishZeros = w.finishZeros :=
    BitVec.eq_of_toNat_eq (by rw [toNat_finishZeros, toNat_finishZeros, hsel])
  have hindex : v.laneIndex = w.laneIndex :=
    BitVec.eq_of_toNat_eq (by rw [toNat_laneIndex, toNat_laneIndex, hsel])
  simp [decode, decodeFinish, hop, hsel, hdata, hwrite, hzeros, hindex]

/-- All the words, listed by their fields (R61). -/
def wordsByFields : List CmdWord :=
  (List.range 4).flatMap fun op => (List.range 64).flatMap fun sel => (List.range 256).map fun data =>
    CmdWord.ofFields (BitVec.ofNat 2 op) (BitVec.ofNat 6 sel) (BitVec.ofNat 8 data)

theorem length_wordsByFields : wordsByFields.length = 65536 := by
  simp [wordsByFields, List.length_flatMap]

theorem mem_wordsByFields (w : CmdWord) : w ∈ wordsByFields := by
  simp only [wordsByFields, List.mem_flatMap, List.mem_map, List.mem_range]
  exact ⟨w.op.toNat, w.op.isLt, w.sel.toNat, w.sel.isLt, w.data.toNat, w.data.isLt, by simp [ofFields_fields]⟩

/-- One count over the words, from the words with `DATA` 0 and 1: each of the latter stands for the 255 words with the same
`OP` and `SEL` and `DATA` not 0. -/
def countTable (d : Decoded → Bool) : Nat :=
  ((List.range 4).map fun op => ((List.range 64).map fun sel =>
    (d (decode (CmdWord.ofFields (BitVec.ofNat 2 op) (BitVec.ofNat 6 sel) 0#8))).toNat +
      255 * (d (decode (CmdWord.ofFields (BitVec.ofNat 2 op) (BitVec.ofNat 6 sel) 1#8))).toNat).sum).sum

section
variable {d : Decoded → Bool} (hd : ∀ (m : LaneMask) (b c : Byte), d (.command (.write m b)) = d (.command (.write m c)))
include hd

/-- Where WRITE's byte does not count, `DATA` counts only for whether it is 0. -/
theorem answer_of_data_ne_zero (o : BitVec 2) (m : LaneMask) {b : Byte} (hb : b ≠ 0#8) :
    d (decode (CmdWord.ofFields o m b)) = d (decode (CmdWord.ofFields o m 1#8)) := by
  by_cases ho : o = 0b01#2
  · have hdecode (c : Byte) : decode (CmdWord.ofFields o m c) = .command (.write m c) := by simp [decode, ho]
    rw [hdecode, hdecode, hd]
  · rw [decode_congr (w := CmdWord.ofFields o m 1#8) (by simp) (by simp) (by simpa using hb) (by simpa using ho)]

/-- The words with given `OP` and `SEL`: one with `DATA` 0, and 255 answered alike. -/
theorem countP_data (o : BitVec 2) (m : LaneMask) :
    (List.range 256).countP (fun n => d (decode (CmdWord.ofFields o m (BitVec.ofNat 8 n)))) =
      (d (decode (CmdWord.ofFields o m 0#8))).toNat + 255 * (d (decode (CmdWord.ofFields o m 1#8))).toNat := by
  have hrest : ∀ n ∈ List.range 255, d (decode (CmdWord.ofFields o m (BitVec.ofNat 8 (n + 1)))) =
      d (decode (CmdWord.ofFields o m 1#8)) := by
    intro n hn
    apply answer_of_data_ne_zero hd
    rw [List.mem_range] at hn
    rw [ne_eq, ← toNat_eq_zero_iff, BitVec.toNat_ofNat]
    omega
  have hcount : (List.range 255).countP (fun n => d (decode (CmdWord.ofFields o m (BitVec.ofNat 8 (n + 1))))) =
      255 * (d (decode (CmdWord.ofFields o m 1#8))).toNat := by
    rw [List.countP_congr fun n hn => by rw [hrest n hn]]
    cases d (decode (CmdWord.ofFields o m 1#8)) <;> simp
  rw [List.range_succ_eq_map, List.countP_cons, List.countP_map, Function.comp_def, hcount, Nat.add_comm]
  cases d (decode (CmdWord.ofFields o m 0#8)) <;> rfl

theorem countP_wordsByFields : wordsByFields.countP (fun w => d (decode w)) = countTable d := by
  simp only [wordsByFields, List.countP_flatMap, List.countP_map, Function.comp_def, countP_data hd, countTable]

end

/-- Settles O9: each count from the table, whose entries are decoded. -/
theorem wordCounts : Obligations.WordCounts := by
  unfold Obligations.WordCounts
  intro words count
  have hcount {d : Decoded → Bool} {n : Nat} (h : countTable d = n)
      (hd : ∀ (m : LaneMask) (b c : Byte), d (.command (.write m b)) = d (.command (.write m c))) : count d = n :=
    (countP_wordsByFields hd).trans h
  -- `hcount` is all that is needed of `count`; its value would send the unifier through the list of words.
  clear_value count
  refine ⟨length_wordsByFields, mem_wordsByFields, ?_⟩
  and_intros <;> exact hcount (by decide) fun _ _ _ => rfl

end Sys2Proof.Machine
end

section
/-! PROOFS. The datapath (40_datapath.md): the multiplier as arithmetic modulo `2^W` (R80, R88), `xor_reduce` bit by bit (R81),
and the two update orders made of them (R83 to R87, R91, R92). -/

namespace Sys2Proof.Machine

/-! The multiplier. -/

/-- The multiplier in exact arithmetic (R80). -/
theorem toNat_mulPrime (w : Width) (x : BitVec w.bits) :
    (mulPrime w x).toNat = x.toNat * (Config.prime w).toNat % 2 ^ w.bits :=
  BitVec.toNat_ofNat ..

theorem mulPrime_zero (w : Width) : mulPrime w 0 = 0 := by
  rw [mulPrime_eq, zero_mul]

/-- Settles O13: the product modulo `2^W` at each width; 0 and 1 from the multiplication of bit vectors. -/
theorem multiplierWrapsModulo : Obligations.MultiplierWrapsModulo := by
  refine ⟨toNat_mulPrime .w32, toNat_mulPrime .w64, toNat_mulPrime .w128, fun w => ⟨mulPrime_zero w, ?one, ?topBit⟩,
    ?examples⟩
  case one => rw [mulPrime_eq, one_mul]
  case topBit => cases w <;> decide
  case examples => decide

/-- The prime is the sum of the powers of two at the listed positions (R88). -/
theorem sum_twoPow_primeShifts (w : Width) : ((primeShifts w).map (BitVec.twoPow w.bits)).sum = Config.prime w := by
  cases w <;> decide

/-- The shift-and-add form is the multiplier: multiplication distributes over the sum that makes the prime (R88). -/
theorem mulShiftAdd_eq (w : Width) (x : BitVec w.bits) : mulShiftAdd w x = mulPrime w x := by
  simp only [mulShiftAdd, BitVec.shiftLeft_eq_mul_twoPow]
  rw [List.sum_map_mul_left, sum_twoPow_primeShifts, mulPrime_eq]

/-- Settles O14: each sum written out is the table-driven form at its width. -/
theorem multiplierIsShiftAndAdd : Obligations.MultiplierIsShiftAndAdd := by
  refine ⟨fun x => (mulShiftAdd_eq .w32 x).symm.trans ?w32, fun x => (mulShiftAdd_eq .w64 x).symm.trans ?w64,
    fun x => (mulShiftAdd_eq .w128 x).symm.trans ?w128, rfl, rfl, rfl, mulShiftAdd_eq⟩
  all_goals simp [mulShiftAdd, primeShifts, add_assoc]

/-- Multiplication by the prime is invertible modulo `2^W`, because the prime is odd (R91). -/
theorem mulPrime_bijective (w : Width) : Function.Bijective (mulPrime w) := by
  refine Finite.injective_iff_bijective.mp fun x y h => BitVec.eq_of_toNat_eq ?_
  have hodd : Odd (Config.prime w).toNat := by cases w <;> decide
  have hmod : x.toNat * (Config.prime w).toNat ≡ y.toNat * (Config.prime w).toNat [MOD 2 ^ w.bits] := by
    rw [Nat.ModEq, ← toNat_mulPrime, ← toNat_mulPrime, h]
  exact (hmod.cancel_right_of_coprime ((Nat.coprime_two_left.mpr hodd).pow_left _)).eq_of_lt_of_lt x.isLt y.isLt

/-- The low 24 bits of the prime are `0x193`, `0x1b3` or `0x13b`: more than a byte holds, and small (R88). -/
theorem prime_mod_bounds (w : Width) :
    2 ^ 8 ≤ (Config.prime w).toNat % 2 ^ 24 ∧ (Config.prime w).toNat % 2 ^ 24 ≤ 2 ^ 9 := by
  cases w <;> decide

theorem toNat_mulPrime_mod (w : Width) (x : BitVec w.bits) :
    (mulPrime w x).toNat % 2 ^ 24 = x.toNat * ((Config.prime w).toNat % 2 ^ 24) % 2 ^ 24 := by
  have hw : 24 ≤ w.bits := by cases w <;> decide
  rw [toNat_mulPrime, Nat.mod_mod_of_dvd _ (pow_dvd_pow 2 hw), Nat.mul_mod_mod]

/-- The multiplier carries a difference in the low byte alone above the low byte: modulo `2^24` it becomes one of
at least `2^8` and less than `2^17`. -/
theorem mulPrime_div_ne {w : Width} {x y : BitVec w.bits} (hlt : x.toNat < y.toNat)
    (h : x.toNat / 2 ^ 8 = y.toNat / 2 ^ 8) : (mulPrime w x).toNat / 2 ^ 8 ≠ (mulPrime w y).toNat / 2 ^ 8 := by
  obtain ⟨hlow, hhigh⟩ := prime_mod_bounds w
  have hx := toNat_mulPrime_mod w x
  have hy := toNat_mulPrime_mod w y
  obtain ⟨d, hd⟩ := Nat.exists_eq_add_of_lt hlt
  rw [hd, add_assoc, add_mul] at hy
  have hle : (d + 1) * ((Config.prime w).toNat % 2 ^ 24) ≤ 255 * 2 ^ 9 := Nat.mul_le_mul (by omega) hhigh
  have hge : 1 * 2 ^ 8 ≤ (d + 1) * ((Config.prime w).toNat % 2 ^ 24) := Nat.mul_le_mul (by omega) hlow
  omega

/-! `xor_reduce`. -/

theorem eight_le_bits (w : Width) : 8 ≤ w.bits := by
  cases w <;> decide

theorem getLsbD_xorReduce (w : Width) (x : BitVec w.bits) (b : Byte) (k : Nat) :
    (xorReduce w x b).getLsbD k = (x.getLsbD k != (decide (k < w.bits) && b.getLsbD k)) := by
  rw [xorReduce, byteAt, BitVec.getLsbD_xor, BitVec.getLsbD_setWidth]

/-- Settles O15: bit by bit; every register has the bits below 8, and a byte no bit from 8 on. -/
theorem xorReduceTouchesTheLowByteOnly : Obligations.XorReduceTouchesTheLowByteOnly := by
  refine ⟨fun w x b => ⟨fun k hk => ?low, fun k hk => ?high, xorReduce_zero w x, xorReduce_xorReduce w x b⟩, ?examples⟩
  case low =>
    have hw : k < w.bits := hk.trans_le (eight_le_bits w)
    rw [getLsbD_xorReduce, decide_eq_true hw, Bool.true_and]
  case high => rw [getLsbD_xorReduce, BitVec.getLsbD_of_ge b k hk, Bool.and_false, Bool.bne_false]
  case examples => decide

/-- The byte leaves the number above the low byte as it is (R81). -/
theorem toNat_xorReduce_div (w : Width) (x : BitVec w.bits) (b : Byte) :
    (xorReduce w x b).toNat / 2 ^ 8 = x.toNat / 2 ^ 8 := by
  rw [xorReduce, byteAt, BitVec.toNat_xor, BitVec.toNat_setWidth_of_le (eight_le_bits w), Nat.xor_div_two_pow,
    Nat.div_eq_of_lt b.isLt, Nat.xor_zero]

theorem xorReduce_zero_left (w : Width) (b : Byte) : xorReduce w 0 b = b.setWidth w.bits :=
  BitVec.zero_xor

theorem setWidth_eq_zero_iff (w : Width) (b : Byte) : b.setWidth w.bits = 0#w.bits ↔ b = 0#8 := by
  rw [← toNat_eq_zero_iff, BitVec.toNat_setWidth_of_le (eight_le_bits w), toNat_eq_zero_iff]

/-- Only the zero byte leaves the register as it is (R81). -/
theorem xorReduce_eq_self_iff (w : Width) (x : BitVec w.bits) (b : Byte) : xorReduce w x b = x ↔ b = 0#8 := by
  have h := BitVec.xor_right_inj (x := byteAt w.bits b) (y := 0#w.bits) x
  rwa [BitVec.xor_zero, byteAt, setWidth_eq_zero_iff] at h

theorem xorReduce_bijective (w : Width) (b : Byte) : Function.Bijective (xorReduce w · b) :=
  Function.Involutive.bijective (xorReduce_xorReduce w · b)

/-! The two update orders. -/

/-- FNV-1 in exact arithmetic (R83). -/
theorem updFnv1_eq (w : Width) (r : BitVec w.bits) (b : Byte) :
    updFnv1 w r b = BitVec.ofNat w.bits (r.toNat * (Config.prime w).toNat % 2 ^ w.bits) ^^^ b.setWidth w.bits := by
  rw [updFnv1, xorReduce, byteAt, ← toNat_mulPrime, BitVec.ofNat_toNat, BitVec.setWidth_eq]

/-- FNV-1a in exact arithmetic (R84). -/
theorem updFnv1a_eq (w : Width) (r : BitVec w.bits) (b : Byte) :
    updFnv1a w r b = BitVec.ofNat w.bits ((r ^^^ b.setWidth w.bits).toNat * (Config.prime w).toNat % 2 ^ w.bits) := by
  rw [updFnv1a, xorReduce, byteAt, ← toNat_mulPrime, BitVec.ofNat_toNat, BitVec.setWidth_eq]

/-- Settles O16: each lane takes the order of its variant at its width. -/
theorem laneUpdateOrders : Obligations.LaneUpdateOrders := by
  refine ⟨?w32, ?w64, ?w128, by decide, by decide⟩
  case w32 => exact fun r b => ⟨updFnv1_eq .w32 r b, updFnv1a_eq .w32 r b⟩
  case w64 => exact fun r b => ⟨updFnv1_eq .w64 r b, updFnv1a_eq .w64 r b⟩
  case w128 => exact fun r b => ⟨updFnv1_eq .w128 r b, updFnv1a_eq .w128 r b⟩

/-- Settles O53: were they equal, the products of `r` and of `r` XOR the byte would agree above the low byte, as `r` and `r` XOR
the byte do; but the multiplier carries their difference above it. -/
theorem ordersDifferOnEveryNonzeroByte : Obligations.OrdersDifferOnEveryNonzeroByte := by
  intro w r b hb h
  have hdiv := toNat_xorReduce_div w r b
  have hmul : (mulPrime w (xorReduce w r b)).toNat / 2 ^ 8 = (mulPrime w r).toNat / 2 ^ 8 := by
    rw [← updFnv1a, ← h, updFnv1, toNat_xorReduce_div]
  have hne : (xorReduce w r b).toNat ≠ r.toNat := fun e => hb ((xorReduce_eq_self_iff w r b).mp (BitVec.eq_of_toNat_eq e))
  obtain hlt | hgt := hne.lt_or_gt
  · exact mulPrime_div_ne hlt hdiv hmul
  · exact mulPrime_div_ne hgt hdiv.symm hmul.symm

/-- Settles O17: a zero byte leaves both to the multiplier (R81); on the byte 0x01 they differ, by O53. -/
theorem ordersAgreeOnAZeroByteAndDoNotCommute : Obligations.OrdersAgreeOnAZeroByteAndDoNotCommute := by
  refine fun w => ⟨fun r => ⟨xorReduce_zero w _, congrArg (mulPrime w) (xorReduce_zero w r)⟩, 0, 0x01#8, ?_⟩
  exact ordersDifferOnEveryNonzeroByte w 0 0x01#8 (by decide)

theorem laneUpdate_bijective (l : Lane) (b : Byte) : Function.Bijective (laneUpdate l · b) := by
  unfold laneUpdate
  cases laneVariant l
  case fnv1 => exact (xorReduce_bijective l.width b).comp (mulPrime_bijective l.width)
  case fnv1a => exact (mulPrime_bijective l.width).comp (xorReduce_bijective l.width b)

theorem updFnv1a_zero (w : Width) (b : Byte) : updFnv1a w 0 b = mulPrime w (b.setWidth w.bits) := by
  rw [updFnv1a, xorReduce_zero_left]

/-- Settles O18: each update is composed of two bijections, the multiplier and `xor_reduce`; the multiplier is 0 at 0 only. -/
theorem laneUpdateIsBijective : Obligations.LaneUpdateIsBijective := by
  refine ⟨laneUpdate_bijective, fun w b => ?fnv1, updFnv1a_zero, fun w b => ?fnv1aZero⟩
  case fnv1 => rw [updFnv1, mulPrime_zero, xorReduce_zero_left]
  case fnv1aZero =>
    rw [updFnv1a_zero, (mulPrime_bijective w).injective.eq_iff' (mulPrime_zero w)]
    exact setWidth_eq_zero_iff w b

/-- Settles O19: the two hashes, computed. -/
theorem narrowDigestIsNotTheLowHalf : Obligations.NarrowDigestIsNotTheLowHalf := by
  unfold Obligations.NarrowDigestIsNotTheLowHalf
  decide

end Sys2Proof.Machine
end

section
/-! PROOFS. WRITE in one step (41_write.md R100 to R108), and what a WRITE or a RESET tuple is to one lane. -/

namespace Sys2Proof.Machine

/-- WRITE answers with the selected lanes updated and drives (0, 0, 0), whatever the mask, the byte and the state (R100, R107). -/
theorem exec_write (m : LaneMask) (b : Byte) (s : State) :
    exec (.write m b) s = .next ((s.withRegs (s.regs.afterWrite m b)).drive PortOut.quiet) := rfl

/-- The word of WRITE as a number (R64). -/
theorem toNat_encode_write (m : LaneMask) (b : Byte) : (encode (.write m b)).toNat = 0x4000 + 256 * m.toNat + b.toNat := by
  obtain ⟨-, hwrite, -⟩ := commandWordsAsNumbers
  exact hwrite m b

/-- Settles O21: the word is the encoder's, and each lane after the WRITE is `read_afterWrite`. -/
theorem writeUpdatesTheSelectedLanes : Obligations.WriteUpdatesTheSelectedLanes := by
  refine ⟨fun m b => ?word, ⟨_, rfl, by decide⟩, fun m b s => ⟨_, exec_write m b s, ?lanes, rfl, rfl, rfl⟩⟩
  case word =>
    rw [← toNat_encode_write, BitVec.ofNat_toNat, BitVec.setWidth_eq]
    exact decodeOfEncode _
  case lanes => exact read_afterWrite s.regs m b

/-! A selected lane of each variant, in exact arithmetic, with its corner cases. -/

/-- On a zero byte every lane multiplies, whatever its variant (R87). -/
theorem laneUpdate_zeroByte (l : Lane) (r : BitVec l.bits) : laneUpdate l r 0#8 = mulPrime l.width r := by
  obtain ⟨hagree, -⟩ := ordersAgreeOnAZeroByteAndDoNotCommute l.width
  obtain ⟨hfnv1, hfnv1a⟩ := hagree r
  unfold laneUpdate
  cases laneVariant l
  case fnv1 => exact hfnv1
  case fnv1a => exact hfnv1a

section
variable {m : LaneMask} {l : Lane} (hm : selects m l = true) (b : Byte) (r : DigestFile)
include hm

theorem read_afterWrite_of_selects : (r.afterWrite m b).read l = laneUpdate l (r.read l) b := by
  rw [read_afterWrite, if_pos hm]

/-- A selected FNV-1 lane: multiply, then XOR (R101, R103, R105). -/
theorem read_afterWrite_fnv1 (hv : laneVariant l = .fnv1) :
    (r.afterWrite m b).read l =
      BitVec.ofNat l.bits ((r.read l).toNat * (Config.prime l.width).toNat % 2 ^ l.bits) ^^^ b.setWidth l.bits ∧
    (b = 0x00#8 → (r.afterWrite m b).read l = mulPrime l.width (r.read l)) ∧
    (r.read l = 0 → (r.afterWrite m b).read l = b.setWidth l.bits) := by
  obtain ⟨-, hzero, -, -⟩ := laneUpdateIsBijective
  have hupdate : laneUpdate l = updFnv1 l.width := by unfold laneUpdate; rw [hv]
  rw [read_afterWrite_of_selects hm]
  refine ⟨?exact, ?zeroByte, ?zeroRegister⟩
  case exact => rw [hupdate, updFnv1_eq]
  case zeroByte => rintro rfl; exact laneUpdate_zeroByte l (r.read l)
  case zeroRegister => intro hr; rw [hr, hupdate, hzero]

/-- A selected FNV-1a lane: XOR, then multiply (R102, R104, R106). -/
theorem read_afterWrite_fnv1a (hv : laneVariant l = .fnv1a) :
    (r.afterWrite m b).read l =
      BitVec.ofNat l.bits ((r.read l ^^^ b.setWidth l.bits).toNat * (Config.prime l.width).toNat % 2 ^ l.bits) ∧
    (b = 0x00#8 → (r.afterWrite m b).read l = mulPrime l.width (r.read l)) ∧
    (r.read l = 0 → (r.afterWrite m b).read l = mulPrime l.width (b.setWidth l.bits) ∧
      ((r.afterWrite m b).read l = 0 ↔ b = 0x00#8)) := by
  obtain ⟨-, -, hzero, hzeroIff⟩ := laneUpdateIsBijective
  have hupdate : laneUpdate l = updFnv1a l.width := by unfold laneUpdate; rw [hv]
  rw [read_afterWrite_of_selects hm]
  refine ⟨?exact, ?zeroByte, ?zeroRegister⟩
  case exact => rw [hupdate, updFnv1a_eq]
  case zeroByte => rintro rfl; exact laneUpdate_zeroByte l (r.read l)
  case zeroRegister => intro hr; rw [hr, hupdate]; exact ⟨hzero l.width b, hzeroIff l.width b⟩

end

/-- Settles O22: each of the three lanes is an FNV-1 lane. -/
theorem writeOnFnv1Lanes : Obligations.WriteOnFnv1Lanes := by
  refine ⟨fun m b s => ⟨_, exec_write m b s, rfl, ?lane0, ?lane2, ?lane4⟩, _, rfl, by decide⟩
  case lane0 => exact fun hm => read_afterWrite_fnv1 (l := .fnv1_32) hm b s.regs rfl
  case lane2 => exact fun hm => read_afterWrite_fnv1 (l := .fnv1_64) hm b s.regs rfl
  case lane4 => exact fun hm => read_afterWrite_fnv1 (l := .fnv1_128) hm b s.regs rfl

/-- Settles O23: each of the three lanes is an FNV-1a lane. -/
theorem writeOnFnv1aLanes : Obligations.WriteOnFnv1aLanes := by
  refine ⟨fun m b s => ⟨_, exec_write m b s, rfl, ?lane1, ?lane3, ?lane5⟩, _, rfl, by decide⟩
  case lane1 => exact fun hm => read_afterWrite_fnv1a (l := .fnv1a_32) hm b s.regs rfl
  case lane3 => exact fun hm => read_afterWrite_fnv1a (l := .fnv1a_64) hm b s.regs rfl
  case lane5 => exact fun hm => read_afterWrite_fnv1a (l := .fnv1a_128) hm b s.regs rfl

/-! The empty mask. -/

theorem afterWrite_zero (r : DigestFile) (b : Byte) : r.afterWrite 0#6 b = r :=
  DigestFile.ext_read fun l => by rw [read_afterWrite, selects_zero]; rfl

theorem exec_write_zero (b : Byte) (s : State) : exec (.write 0#6 b) s = exec .nop s := by
  rw [exec_write, afterWrite_zero]
  rfl

/-- The step that presents the word of a command is that command (R12, R72). -/
theorem clockEdge_encode (i : Instr) (s : State) : clockEdge (PortIn.command (encode i)) s = exec i s :=
  clockEdge_command (p := PortIn.command (encode i)) rfl rfl (decodeOfEncode i) s

/-- Settles O24: the word is that of WRITE(0, b), whose registers are the old ones. -/
theorem writeToNoLaneIsNop : Obligations.WriteToNoLaneIsNop := by
  intro b s
  have hword : 0x4000#16 + b.setWidth 16 = encode (.write 0#6 b) := by
    apply BitVec.eq_of_toNat_eq
    rw [toNat_encode_write, BitVec.toNat_add, BitVec.toNat_setWidth_of_le (by decide)]
    have hb := b.isLt
    simp only [BitVec.toNat_ofNat]
    omega
  rw [hword]
  refine ⟨decodeOfEncode _, ?_, exec_write_zero b s⟩
  calc step (s.present (PortIn.command (encode (.write 0#6 b))))
    _ = exec (.write 0#6 b) s := clockEdge_encode _ s
    _ = exec .nop s := exec_write_zero b s
    _ = step (s.present (PortIn.command (encode .nop))) := (clockEdge_encode .nop s).symm

end Sys2Proof.Machine
end

section
/-! PROOFS. The hashes of zero bytes and of one byte, and the registers at reset (41_write.md R111, R112, 40_datapath.md R87,
R89). -/

namespace Sys2Proof.Machine

/-- Zero bytes multiply the register by the prime, once each: nothing in it depends on the variant (R112). -/
theorem foldBytes_zeroBytes (l : Lane) (r : BitVec l.bits) (n : Nat) :
    foldBytes l r (List.replicate n 0#8) = (mulPrime l.width)^[n] r := by
  induction n generalizing r with
  | zero => rfl
  | succ n ih => rw [List.replicate_succ, foldBytes_cons, laneUpdate_zeroByte, ih, Function.iterate_succ_apply]

/-- From any register value the two orders agree on the zero byte and on no other (R87). -/
theorem updFnv1_eq_updFnv1a_iff (w : Width) (r : BitVec w.bits) (b : Byte) :
    updFnv1 w r b = updFnv1a w r b ↔ b = 0#8 := by
  constructor
  · exact fun h => by_contra fun hb => ordersDifferOnEveryNonzeroByte w r b hb h
  · rintro rfl
    obtain ⟨hagree, -⟩ := ordersAgreeOnAZeroByteAndDoNotCommute w
    obtain ⟨hfnv1, hfnv1a⟩ := hagree r
    exact hfnv1.trans hfnv1a.symm

/-- Settles O20: on zero bytes both lanes of a width only multiply, from the same offset basis; on one byte they are the two
orders at that basis. -/
theorem variantsAgreeOnZeroBytes : Obligations.VariantsAgreeOnZeroBytes := by
  constructor
  · intro n
    simp only [hashOf, foldBytes_zeroBytes]
    exact ⟨rfl, rfl, rfl⟩
  · intro b
    exact ⟨updFnv1_eq_updFnv1a_iff .w32 _ b, updFnv1_eq_updFnv1a_iff .w64 _ b, updFnv1_eq_updFnv1a_iff .w128 _ b⟩

/-- Settles O52: every lane reads as its offset basis, which is the hash of no bytes and depends on the width alone. -/
theorem registersAreDigestsAtReset : Obligations.RegistersAreDigestsAtReset :=
  ⟨read_reset, rfl, rfl, rfl⟩

end Sys2Proof.Machine
end

section
/-! PROOFS. Sequences of WRITEs: the bytes a lane gets are all that counts (41_write.md R109, R110, R114). -/

namespace Sys2Proof.Machine

theorem bytesTo_cons (l : Lane) (p : PortIn) (ps : List PortIn) :
    bytesTo l (p :: ps) = (p.writes l).toList ++ bytesTo l ps := by
  cases hw : p.writes l <;> simp [bytesTo, hw]

/-- Tuples that do not restart the lane fold the bytes they write to it into its register, in step order (R109). -/
theorem foldl_laneAfter_of_no_restart {l : Lane} {ps : List PortIn} (h : ∀ p ∈ ps, p.restarts l = false) (r : BitVec l.bits) :
    ps.foldl (laneAfter l) r = foldBytes l r (bytesTo l ps) := by
  induction ps generalizing r with
  | nil => rfl
  | cons p ps ih =>
    obtain ⟨hp, hps⟩ := List.forall_mem_cons.mp h
    rw [List.foldl_cons, ih hps, laneAfter, hp, bytesTo_cons, foldBytes_append]
    rfl

/-- Settles O46: a run does to the lane what each tuple does, and none of the tuples restarts it. -/
theorem incrementalEquivalence : Obligations.IncrementalEquivalence := by
  refine ⟨fun l ps rest s hin hps => ?_, foldBytes_append⟩
  obtain ⟨t, ht, htin, hreg⟩ := run_lane l ps rest hin
  exact ⟨t, ht, htin, hreg.trans (foldl_laneAfter_of_no_restart hps _)⟩

/-! What the tuple of a WRITE or of a RESET is to a lane. -/

@[simp] theorem performs_encode (i : Instr) : (PortIn.command (encode i)).performs = some i := by
  simp [PortIn.performs, decodeOfEncode i]

@[simp] theorem writes_encode_write (m : LaneMask) (b : Byte) (l : Lane) :
    (PortIn.command (encode (.write m b))).writes l = if selects m l then some b else none := by
  simp [PortIn.writes]

@[simp] theorem restarts_encode_write (m : LaneMask) (b : Byte) (l : Lane) :
    (PortIn.command (encode (.write m b))).restarts l = false := by
  simp [PortIn.restarts]

@[simp] theorem restarts_encode_reset (m : LaneMask) (l : Lane) :
    (PortIn.command (encode (.reset m))).restarts l = selects m l := by
  simp [PortIn.restarts]

/-- The tuple of the WRITE of a byte to one lane (R114). -/
def writeOf (l : Lane) (b : Byte) : PortIn := PortIn.command (encode (.write (maskOfLane l) b))

/-- A single-lane WRITE writes its byte to its lane and nothing to another (R27 (a), R114). -/
@[simp] theorem writes_writeOf (l k : Lane) (b : Byte) : (writeOf k b).writes l = if k = l then some b else none := by
  simp [writeOf]

@[simp] theorem restarts_writeOf (l k : Lane) (b : Byte) : (writeOf k b).restarts l = false := by
  simp [writeOf]

/-- Single-lane WRITEs of one byte to the listed lanes write it to a lane as often as the list names the lane. -/
theorem bytesTo_writeOf_lanes (l : Lane) (b : Byte) (ls : List Lane) :
    bytesTo l (ls.map (writeOf · b)) = List.replicate (ls.count l) b := by
  induction ls with
  | nil => rfl
  | cons k ls ih =>
    rw [List.map_cons, bytesTo_cons, ih, writes_writeOf]
    by_cases hk : k = l
    · simp [hk, List.replicate_succ]
    · simp [hk]

/-- Settles O25: the list names each selected lane once and no other, so the WRITEs write the byte once to each selected lane and
nothing to another, in whatever order. -/
theorem broadcastIsSeparateWritesInAnyOrder : Obligations.BroadcastIsSeparateWritesInAnyOrder := by
  intro m b s ls hnodup hmem
  obtain ⟨hrun, -⟩ := incrementalEquivalence
  have hlane (l : Lane) := hrun l (ls.map (writeOf · b)) [] { s with inputs := ls.map (writeOf · b) } (by simp) (by simp)
  simp only [List.length_map] at hlane
  obtain ⟨u, hu, -⟩ := hlane .fnv1_32
  refine ⟨_, u, exec_write m b s, hu, DigestFile.ext_read fun l => ?_⟩
  obtain ⟨u', hu', -, hreg⟩ := hlane l
  obtain rfl : u' = u := Host.Outcome.next.inj (hu'.symm.trans hu)
  rw [hreg, bytesTo_writeOf_lanes, hnodup.count, drive_regs, withRegs_regs, read_afterWrite]
  by_cases hs : selects m l = true
  · rw [if_pos ((hmem l).mpr hs), if_pos hs]; rfl
  · rw [if_neg (mt (hmem l).mp hs), if_neg hs]; rfl

/-- The tuple's step drives (0, 0, 0) and records no fault, in every state. -/
def PortIn.Quiet (p : PortIn) : Prop :=
  ∀ s : State, ∃ t : State, clockEdge p s = .next t ∧ t.inputs = s.inputs ∧ t.faults = s.faults ∧
    t.observed = s.observed ++ [PortOut.quiet]

theorem quiet_writeOf (l : Lane) (b : Byte) : (writeOf l b).Quiet :=
  fun s => ⟨_, clockEdge_encode _ s, rfl, rfl, rfl⟩

theorem quiet_encode_reset (m : LaneMask) : (PortIn.command (encode (.reset m))).Quiet :=
  fun s => ⟨_, clockEdge_encode _ s, rfl, rfl, rfl⟩

/-- Over quiet tuples a run observes (0, 0, 0) in every step and records no fault. -/
theorem run_quiet {ps rest : List PortIn} (hq : ∀ p ∈ ps, p.Quiet) {s : State} (h : s.inputs = ps ++ rest) :
    ∃ t : State, run ps.length s = .next t ∧ t.faults = s.faults ∧
      t.observed = s.observed ++ List.replicate ps.length PortOut.quiet := by
  induction ps generalizing s with
  | nil => exact ⟨s, rfl, rfl, by simp⟩
  | cons p ps ih =>
    obtain ⟨hp, hps⟩ := List.forall_mem_cons.mp hq
    obtain ⟨u, hu, hin, hf, ho⟩ := hp { s with inputs := ps ++ rest }
    obtain ⟨t, ht, htf, hto⟩ := ih hps hin
    exact ⟨t, (run_succ _ ((step_of_inputs h).trans hu)).trans ht, htf.trans hf, by simp [hto, ho, List.replicate_succ]⟩

/-- The tuples of the expansion of `hash` before its FINISH: a RESET of the lane, then the WRITEs of the bytes to it (R76). -/
def resetThenWrites (l : Lane) (bs : List Byte) : List PortIn :=
  PortIn.command (encode (.reset (maskOfLane l))) :: bs.map (writeOf l)

theorem length_resetThenWrites (l : Lane) (bs : List Byte) : (resetThenWrites l bs).length = bs.length + 1 := by
  simp [resetThenWrites]

theorem quiet_of_mem_resetThenWrites (l : Lane) (bs : List Byte) : ∀ p ∈ resetThenWrites l bs, p.Quiet := by
  simp [resetThenWrites, quiet_encode_reset, quiet_writeOf]

/-- They leave the hash of the bytes in the lane, whatever it held (R110). -/
theorem foldl_laneAfter_resetThenWrites (l : Lane) (bs : List Byte) (r : BitVec l.bits) :
    (resetThenWrites l bs).foldl (laneAfter l) r = hashOf l bs := by
  have hreset : laneAfter l r (PortIn.command (encode (.reset (maskOfLane l)))) = offsetBasis l := by simp [laneAfter]
  have hbytes : bytesTo l (bs.map (writeOf l)) = bs := by simp [bytesTo, List.filterMap_map]
  rw [resetThenWrites, List.foldl_cons, hreset, foldl_laneAfter_of_no_restart (by simp), hbytes, hashOf]

/-- Settles O47: the expansion restarts the lane, writes the bytes to it and finishes it; all its steps but the last are quiet. -/
theorem hashReturnsTheHashFromAnyState : Obligations.HashReturnsTheHashFromAnyState := by
  rintro r l bs s ps hl hps rfl
  obtain ⟨-, -, -, hhash⟩ := pseudoInstructionExpansions
  have hin : s.inputs = resetThenWrites l bs ++ [PortIn.command (encode (finishOfLane l))] :=
    Option.some.inj (hps.symm.trans (hhash r l bs hl))
  obtain ⟨t, ht, htin, hreg⟩ := run_lane l _ _ hin
  obtain ⟨t', ht', hf, ho⟩ := run_quiet (quiet_of_mem_resetThenWrites l bs) hin
  obtain rfl : t' = t := Host.Outcome.next.inj (ht'.symm.trans ht)
  rw [length_resetThenWrites] at ht ho
  rw [foldl_laneAfter_resetThenWrites] at hreg
  have hfinish : step t' = .next (State.finish { t' with inputs := [] } l) := by
    rw [step_of_inputs htin, clockEdge_encode, exec_finishOfLane]
  refine ⟨_, (run_succ_last ht).trans hfinish, hreg, hf, ?_⟩
  rw [finish_observed, ho, hreg]
  rfl

end Sys2Proof.Machine
end

section
/-! PROOFS. FINISH (42_finish.md): one lane's register on the response bus, no register written, and no response but in a step
that performs a FINISH. -/

namespace Sys2Proof.Machine

/-- A listed FINISH of a lane is the next step (R12, R120). -/
theorem step_finish {s : State} {l : Lane} {rest : List PortIn}
    (h : s.inputs = PortIn.command (encode (finishOfLane l)) :: rest) :
    step s = .next (State.finish { s with inputs := rest } l) := by
  rw [step_of_inputs h, clockEdge_encode, exec_finishOfLane]

/-- Over the tuples listed first, a run observes one output tuple a step (R13). -/
theorem run_observed {ps rest : List PortIn} {s : State} (h : s.inputs = ps ++ rest) :
    ∃ (t : State) (os : List PortOut), run ps.length s = .next t ∧ os.length = ps.length ∧
      t.observed = s.observed ++ os := by
  induction ps generalizing s with
  | nil => exact ⟨s, [], rfl, rfl, by simp⟩
  | cons p ps ih =>
    obtain ⟨u, o, hu, hin, huobs, -⟩ := clockEdge_record p { s with inputs := ps ++ rest }
    obtain ⟨t, os, ht, hlen, hobs⟩ := ih hin
    exact ⟨t, o :: os, (run_succ _ ((step_of_inputs h).trans hu)).trans ht, by simp [hlen], by simp [hobs, huobs]⟩

/-- Over tuples that neither write nor restart the lane, a run leaves the lane's register (R27 (d)). -/
theorem run_leaves_lane {l : Lane} {ps rest : List PortIn} {s : State} (h : s.inputs = ps ++ rest)
    (hps : ∀ p ∈ ps, p.writes l = none ∧ p.restarts l = false) :
    ∃ t : State, run ps.length s = .next t ∧ t.inputs = rest ∧ t.regs.read l = s.regs.read l := by
  obtain ⟨hrun, -⟩ := incrementalEquivalence
  obtain ⟨t, ht, htin, hreg⟩ := hrun l ps rest s h fun p hp => (hps p hp).right
  have hbytes : bytesTo l ps = [] := List.filterMap_eq_nil_iff.mpr fun p hp => (hps p hp).left
  exact ⟨t, ht, htin, by rw [hreg, hbytes, foldBytes_nil]⟩

/-- Settles O29: the first FINISH leaves all registers, the tuples between leave the lane's, and the second drives it again. -/
theorem finishIsReadOnlyAndRepeatable : Obligations.FinishIsReadOnlyAndRepeatable := by
  intro l s ps hps hin
  have hfirst := step_finish hin
  have htin : (State.finish { s with inputs := ps ++ [PortIn.command (encode (finishOfLane l))] } l).inputs =
      ps ++ [PortIn.command (encode (finishOfLane l))] := rfl
  obtain ⟨u, os, hu, hlen, hobs⟩ := run_observed htin
  obtain ⟨u', hu', huin, hreg⟩ := run_leaves_lane htin hps
  obtain rfl : u' = u := Host.Outcome.next.inj (hu'.symm.trans hu)
  refine ⟨_, State.finish { u' with inputs := [] } l, os, PortOut.response (s.regs.read l), hfirst, rfl, ?run, rfl, hlen,
    ?observed⟩
  case run =>
    calc run (ps.length + 2) s
      _ = run (ps.length + 1) _ := run_succ _ hfirst
      _ = step u' := run_succ_last hu
      _ = .next (State.finish { u' with inputs := [] } l) := step_finish huin
  case observed =>
    rw [finish_observed, hobs, hreg]
    rfl

/-- A command is the FINISH of a lane or drives (0, 0, 0) (R129). -/
theorem exec_finish_or_quiet (i : Instr) (s : State) :
    (∃ l : Lane, i = finishOfLane l) ∨
      ∃ t : State, exec i s = .next t ∧ t.observed = s.observed ++ [PortOut.quiet] := by
  cases i with
  | nop | write m b | reset m => exact .inr ⟨_, rfl, rfl⟩
  | finishFnv1_32 => exact .inl ⟨.fnv1_32, rfl⟩
  | finishFnv1a_32 => exact .inl ⟨.fnv1a_32, rfl⟩
  | finishFnv1_64 => exact .inl ⟨.fnv1_64, rfl⟩
  | finishFnv1a_64 => exact .inl ⟨.fnv1a_64, rfl⟩
  | finishFnv1_128 => exact .inl ⟨.fnv1_128, rfl⟩
  | finishFnv1a_128 => exact .inl ⟨.fnv1a_128, rfl⟩

/-- A tuple has the FINISH of a lane performed, or its step drives no response (R129). -/
theorem performs_finish_or_no_response (p : PortIn) (s : State) :
    (∃ l : Lane, p.performs = some (finishOfLane l)) ∨
      ∃ (t : State) (o : PortOut), clockEdge p s = .next t ∧ t.observed = s.observed ++ [o] ∧
        o.rspValid = false ∧ o.rspData = 0 := by
  obtain ⟨-, e⟩ | ⟨-, -, e⟩ | ⟨-, -, c, -, e⟩ | ⟨hr, hv, i, hd, e⟩ := clockEdge_cases p s
  · exact .inr ⟨_, _, e, rfl, rfl, rfl⟩
  · exact .inr ⟨_, _, e, rfl, rfl, rfl⟩
  · exact .inr ⟨_, _, e, rfl, rfl, rfl⟩
  · obtain ⟨l, rfl⟩ | ⟨t, ht, hobs⟩ := exec_finish_or_quiet i s
    · exact .inl ⟨l, by simp [PortIn.performs, hr, hv, hd]⟩
    · exact .inr ⟨t, _, e.trans ht, hobs, rfl, rfl⟩

/-- Settles O31: a FINISH drives the register of its lane, and a step that performs none drives no response. -/
theorem responseExactlyOnFinish : Obligations.ResponseExactlyOnFinish := by
  intro s p
  obtain ⟨t, o, ht, -, hobs, -⟩ := clockEdge_record p s
  refine ⟨t, o, ht, hobs, fun l hp => ?finish, fun hp => ?other⟩
  case finish =>
    rw [output_of_finish ht hobs hp]
    exact ⟨rfl, rfl⟩
  case other =>
    obtain ⟨l, hl⟩ | ⟨t', o', ht', hobs', hno⟩ := performs_finish_or_no_response p s
    · exact absurd hl (hp l)
    · obtain rfl : t' = t := Host.Outcome.next.inj (ht'.symm.trans ht)
      obtain rfl : o' = o := by simpa [hobs] using hobs'.symm
      exact hno

/-! The response of each lane in bits (R42). -/

theorem extractLsb'_onResponseBus_low {n : Nat} (hn : n ≤ 128) (v : BitVec n) : (onResponseBus v).extractLsb' 0 n = v := by
  ext k hk
  simp [onResponseBus, BitVec.getLsbD_eq_getElem hk, show k < 128 by omega]

theorem extractLsb'_onResponseBus_high {n : Nat} (v : BitVec n) (m : Nat) : (onResponseBus v).extractLsb' n m = 0 := by
  ext k hk
  simp [onResponseBus]

theorem bits_le (l : Lane) : l.bits ≤ 128 := by
  cases l <;> decide

/-- FINISH of a lane adds one output tuple and changes nothing else; the tuple holds the register in its low bits and 0 above
them (R121 to R126). -/
theorem exec_finishOfLane_slices (l : Lane) (s : State) :
    ∃ o : PortOut, exec (finishOfLane l) s = .next { s with observed := s.observed ++ [o] } ∧ o.rspValid = true ∧
      o.rspData.extractLsb' 0 l.bits = s.regs.read l ∧ o.rspData.extractLsb' l.bits (128 - l.bits) = 0 ∧
      o.cmdErr = false :=
  ⟨PortOut.response (s.regs.read l), exec_finishOfLane l s, rfl, extractLsb'_onResponseBus_low (bits_le l) _,
    extractLsb'_onResponseBus_high _ _, rfl⟩

/-- Settles O26: the words are the encoder's, and both lanes have 32 bits. -/
theorem finishOf32BitLanes : Obligations.FinishOf32BitLanes :=
  ⟨decodeOfEncode .finishFnv1_32, decodeOfEncode .finishFnv1a_32,
    fun s => ⟨exec_finishOfLane_slices .fnv1_32 s, exec_finishOfLane_slices .fnv1a_32 s⟩⟩

/-- Settles O27: the words are the encoder's, and both lanes have 64 bits. -/
theorem finishOf64BitLanes : Obligations.FinishOf64BitLanes :=
  ⟨decodeOfEncode .finishFnv1_64, decodeOfEncode .finishFnv1a_64,
    fun s => ⟨exec_finishOfLane_slices .fnv1_64 s, exec_finishOfLane_slices .fnv1a_64 s⟩⟩

theorem response_128 (v : BitVec 128) : PortOut.response v = { rspValid := true, rspData := v, cmdErr := false } := by
  rw [PortOut.response, onResponseBus_128]

/-- Settles O28: the words are the encoder's, and a register of 128 bits fills the response bus. -/
theorem finishOf128BitLanes : Obligations.FinishOf128BitLanes := by
  refine ⟨decodeOfEncode .finishFnv1_128, decodeOfEncode .finishFnv1a_128, fun s => ⟨?lane4, ?lane5⟩⟩
  case lane4 => rw [← response_128]; exact exec_finishOfLane .fnv1_128 s
  case lane5 => rw [← response_128]; exact exec_finishOfLane .fnv1a_128 s

/-- In the reset state FINISH of a lane drives the lane's offset basis and changes nothing else (R128). -/
theorem step_finish_of_reset {s : State} (hs : s.regs = DigestFile.reset) (l : Lane) :
    step (s.present (PortIn.command (encode (finishOfLane l)))) = .next (s.drive (PortOut.response (offsetBasis l))) := by
  rw [step_present, clockEdge_encode, exec_finishOfLane, State.finish, hs, read_reset]

/-- Settles O30: the six words are those of the six lanes, and each answer is the lane's offset basis on the response bus. -/
theorem finishAfterResetReturnsTheOffsetBasis : Obligations.FinishAfterResetReturnsTheOffsetBasis := by
  intro s hs
  exact ⟨step_finish_of_reset hs .fnv1_32, step_finish_of_reset hs .fnv1a_32, step_finish_of_reset hs .fnv1_64,
    step_finish_of_reset hs .fnv1a_64, step_finish_of_reset hs .fnv1_128, step_finish_of_reset hs .fnv1a_128⟩

end Sys2Proof.Machine
end

section
/-! PROOFS. RESET, NOP and the idle step (43_reset_nop.md). -/

namespace Sys2Proof.Machine

/-- RESET answers with the selected lanes restored and drives (0, 0, 0), whatever the mask and the state (R140). -/
theorem exec_reset (m : LaneMask) (s : State) :
    exec (.reset m) s = .next ((s.withRegs (s.regs.afterReset m)).drive PortOut.quiet) := rfl

/-- The word of RESET decodes to it (R65). -/
theorem decode_reset_word (m : LaneMask) : decode (BitVec.ofNat 16 (0x8000 + 256 * m.toNat)) = .command (.reset m) := by
  obtain ⟨-, -, hreset, -⟩ := commandWordsAsNumbers
  rw [← hreset, BitVec.ofNat_toNat, BitVec.setWidth_eq]
  exact decodeOfEncode _

/-- `OP = 10` with a non-zero `DATA` is reserved (R70, case X2). -/
theorem decode_malformedReset {w : CmdWord} (hop : w.toNat / 2 ^ 14 = 2) (hdata : w.toNat % 2 ^ 8 ≠ 0) :
    decode w = .illegal .malformedReset := by
  obtain ⟨-, hiff, -⟩ := reservedWordsByCase w
  rw [← toNat_op] at hop
  rw [← toNat_data] at hdata
  exact hiff.mpr ⟨BitVec.eq_of_toNat_eq hop, mt (toNat_eq_zero_iff _).mpr hdata⟩

/-- A RESET changes no lane that is at its offset basis already or is not selected (R140). -/
theorem read_afterReset_eq_self {r : DigestFile} {m : LaneMask} {l : Lane}
    (h : selects m l = true → r.read l = offsetBasis l) : (r.afterReset m).read l = r.read l := by
  rw [read_afterReset]
  split
  case isTrue hs => exact (h hs).symm
  case isFalse => rfl

theorem afterReset_zero (r : DigestFile) : r.afterReset 0#6 = r :=
  DigestFile.ext_read fun l => read_afterReset_eq_self (by simp)

/-- The selected lanes are at their offset basis after the first RESET, so a second one finds nothing to change (R140). -/
theorem afterReset_afterReset (r : DigestFile) (m : LaneMask) : (r.afterReset m).afterReset m = r.afterReset m :=
  DigestFile.ext_read fun _ => read_afterReset_eq_self fun hs => by rw [read_afterReset, if_pos hs]

/-- Settles O32: each lane after the RESET is `read_afterReset`; what is left unchanged are the lanes not selected or at their
offset basis. -/
theorem resetRestoresTheSelectedLanes : Obligations.ResetRestoresTheSelectedLanes := by
  refine ⟨decode_reset_word, fun _ => decode_malformedReset, fun m s => ?_⟩
  have hlane := read_afterReset s.regs m
  refine ⟨_, exec_reset m s, hlane .fnv1_32, hlane .fnv1a_32, hlane .fnv1_64, hlane .fnv1a_64, hlane .fnv1_128,
    hlane .fnv1a_128, rfl, rfl, rfl, ?emptyMask, ?atBasis, _, exec_reset m _, afterReset_afterReset s.regs m⟩
  case emptyMask => rintro rfl; exact afterReset_zero s.regs
  case atBasis => exact fun l hl => read_afterReset_eq_self fun _ => hl

/-! The RESET of all lanes. -/

theorem afterReset_allLanes (r : DigestFile) : r.afterReset allLanes = DigestFile.reset :=
  DigestFile.ext_read fun l => by rw [read_afterReset, selects_allLanes, read_reset]; rfl

theorem exec_reset_allLanes (s : State) : exec (.reset allLanes) s = .next (hardwareReset s) := by
  rw [exec_reset, afterReset_allLanes]
  rfl

/-- Settles O33: the word is that of RESET with the full mask, which restores every lane as the hardware reset does. -/
theorem resetAllIsHardwareReset : Obligations.ResetAllIsHardwareReset := by
  refine fun s => ⟨?_, exec_reset_allLanes s⟩
  calc step (s.present (PortIn.command (encode (.reset allLanes))))
    _ = exec (.reset allLanes) s := clockEdge_encode _ s
    _ = .next (hardwareReset s) := exec_reset_allLanes s
    _ = step (s.present PortIn.hwreset) := (clockEdge_rst hwreset_rst s).symm

/-! NOP and the idle step. -/

/-- NOP drives (0, 0, 0) and does nothing else (R142). -/
theorem exec_nop (s : State) : exec .nop s = .next (s.drive PortOut.quiet) := rfl

/-- `OP = 00` in any word but NOP's is reserved (R70, case X1): a word that decodes to NOP is NOP's. -/
theorem decode_malformedNop {w : CmdWord} (hop : w.toNat / 2 ^ 14 = 0) (hw : w ≠ encode .nop) :
    decode w = .illegal .malformedNop := by
  rw [← toNat_op, toNat_eq_zero_iff] at hop
  by_cases hn : w.sel = 0#6 ∧ w.data = 0#8
  · have hd : decode w = .command .nop := by simp [decode, hop, hn]
    exact absurd (encodeOfDecode w .nop hd).symm hw
  · simp [decode, hop, hn]

/-- Settles O34: the word is the encoder's, and NOP drives its tuple in every state. -/
theorem nopLeavesTheState : Obligations.NopLeavesTheState :=
  ⟨decodeOfEncode .nop, fun _ => decode_malformedNop, exec_nop⟩

/-- Settles O35: the clock edge of an idle tuple is the idle step whatever the tuple holds on `cmd`, and NOP has its effect. -/
theorem idleStepIgnoresTheCommand : Obligations.IdleStepIgnoresTheCommand := by
  intro s p hr hv
  have hidle : step (s.present p) = .next (s.drive PortOut.quiet) := clockEdge_idle hr hv s
  exact ⟨hidle, hidle.trans (exec_nop s).symm⟩

end Sys2Proof.Machine
end

section
/-! PROOFS. IllegalCommand, the one exception (60_exceptions.md). -/

namespace Sys2Proof.Machine

/-- Settles O40: `exec_record`, of every command in every state. -/
theorem noLegalCommandFaults : Obligations.NoLegalCommandFaults := by
  intro i s
  obtain ⟨t, o, ht, -, hf, hobs, -, hq⟩ := exec_record i s
  exact ⟨t, o, ht, hf, hobs, hq⟩

/-- The decoder rejects every word that matches no row of the opcode table (R70). -/
theorem decode_of_not_wellFormed {w : CmdWord} (h : CmdWord.wellFormed w = false) : ∃ c, decode w = .illegal c := by
  cases hd : decode w with
  | illegal c => exact ⟨c, rfl⟩
  | command i => simp [(decoderAcceptsExactlyTheTable w).mp ⟨i, hd⟩] at h

/-- A step with a reserved word raises IllegalCommand, whatever the state (R152). -/
theorem clockEdge_reserved {w : CmdWord} (h : CmdWord.wellFormed w = false) (s : State) :
    clockEdge (PortIn.command w) s = .next (raiseIllegalCommand w s) := by
  obtain ⟨c, hd⟩ := decode_of_not_wellFormed h
  exact clockEdge_illegal (command_rst w) (command_cmdValid w) hd s

/-- Every clock edge drives one output tuple, with `cmd_err` exactly where its input tuple is illegal, and records nothing
where it is not (R152). -/
theorem clockEdge_cmdErr (p : PortIn) (s : State) :
    ∃ (t : State) (o : PortOut), clockEdge p s = .next t ∧ t.observed = s.observed ++ [o] ∧ o.cmdErr = p.illegal ∧
      (p.illegal = false → t.faults = s.faults) := by
  obtain ⟨hr, e⟩ | ⟨-, hv, e⟩ | ⟨hr, hv, c, hd, e⟩ | ⟨-, -, i, hd, e⟩ := clockEdge_cases p s
  · exact ⟨_, _, e, rfl, by simp [PortIn.illegal, hr], fun _ => rfl⟩
  · exact ⟨_, _, e, rfl, by simp [PortIn.illegal, hv], fun _ => rfl⟩
  · have hp : p.illegal = true := by simp [PortIn.illegal, hr, hv, wellFormed_eq_false_of_illegal hd]
    exact ⟨_, _, e, rfl, hp.symm, by simp [hp]⟩
  · have hp : p.illegal = false := by simp [PortIn.illegal, (decoderAcceptsExactlyTheTable p.cmd).mp ⟨i, hd⟩]
    obtain ⟨t, o, ht, hf, hobs, hq⟩ := noLegalCommandFaults i s
    exact ⟨t, o, e.trans ht, hobs, hq.trans hp.symm, fun _ => hf⟩

/-- Settles O41: the reserved words by the decoder, every input tuple by the four cases of R154. -/
theorem illegalCommandStep : Obligations.IllegalCommandStep :=
  ⟨fun s _ hw => clockEdge_reserved hw s, fun s p => clockEdge_cmdErr p s⟩

/-! A step reads the registers and its input tuple, and nothing of the record (R11, R12). -/

/-- `f` answers every state with a next one, takes no tuple from the list and drives one output tuple; the registers it leaves
and the tuple it drives depend on the registers it finds and on nothing else. -/
def ReadsRegsOnly (f : State → Host.Outcome State Fault Refusal) : Prop :=
  ∀ s s' : State, s.regs = s'.regs → ∃ (t t' : State) (o : PortOut), f s = .next t ∧ f s' = .next t' ∧
    t.regs = t'.regs ∧ t.inputs = s.inputs ∧ t'.inputs = s'.inputs ∧
    t.observed = s.observed ++ [o] ∧ t'.observed = s'.observed ++ [o]

theorem exec_readsRegsOnly (i : Instr) : ReadsRegsOnly (exec i) := by
  rintro ⟨r, ls, os, fs⟩ ⟨r', ls', os', fs'⟩ h
  obtain rfl : r = r' := h
  cases i <;> exact ⟨_, _, _, rfl, rfl, rfl, rfl, rfl, rfl, rfl⟩

theorem clockEdge_readsRegsOnly (p : PortIn) : ReadsRegsOnly (clockEdge p) := by
  intro s s' h
  obtain ⟨hr, e⟩ | ⟨hr, hv, e⟩ | ⟨hr, hv, c, hd, e⟩ | ⟨hr, hv, i, hd, e⟩ := clockEdge_cases p s
  · exact ⟨_, _, _, e, clockEdge_rst hr s', rfl, rfl, rfl, rfl, rfl⟩
  · exact ⟨_, _, _, e, clockEdge_idle hr hv s', h, rfl, rfl, rfl, rfl⟩
  · exact ⟨_, _, _, e, clockEdge_illegal hr hv hd s', h, rfl, rfl, rfl, rfl⟩
  · rw [e, clockEdge_command hr hv hd]
    exact exec_readsRegsOnly i s s' h

/-- Settles O42: IllegalCommand leaves the registers, and the registers and the tuple are all that the next step reads. -/
theorem stepAfterIllegalCommandIsOrdinary : Obligations.StepAfterIllegalCommandIsOrdinary := by
  refine fun s w hw => ⟨fun p => ?ordinary, fun w' hw' => ?twice⟩
  case ordinary =>
    obtain ⟨u, v, o, hu, hv, hregs, huin, hvin, huobs, hvobs⟩ :=
      clockEdge_readsRegsOnly p (raiseIllegalCommand w s) s rfl
    exact ⟨raiseIllegalCommand w (s.present p), u, v, clockEdge_reserved hw _, hu, hv, rfl, hregs, huin.trans hvin.symm,
      o, huobs, hvobs⟩
  case twice =>
    have hfirst : step ((s.present (PortIn.command w')).present (PortIn.command w)) =
        .next (raiseIllegalCommand w (s.present (PortIn.command w'))) := clockEdge_reserved hw _
    have hsecond : step (raiseIllegalCommand w (s.present (PortIn.command w'))) =
        .next (raiseIllegalCommand w' (raiseIllegalCommand w s)) := clockEdge_reserved hw' _
    refine ⟨raiseIllegalCommand w' (raiseIllegalCommand w s), ?_, rfl, List.append_assoc .., List.append_assoc ..⟩
    rw [run_succ 1 hfirst, run_succ 0 hsecond, run_zero]

end Sys2Proof.Machine
end

section
/-! PROOFS. Reset and boot (70_reset_and_hazards.md): the hardware reset, the host's duty before its first command, the record at
reset, and that every step completes. -/

namespace Sys2Proof.Machine

/-- Settles O39: a step is a clock edge with the rest of the list still to come, and `clockEdge_record` says what each drives. -/
theorem everyStepCompletes : Obligations.EveryStepCompletes := by
  intro s
  obtain ⟨t, o, ht, hin, hobs, -⟩ := clockEdge_record s.nextInput s.takeInput
  exact ⟨t, o, ht, hin, hobs⟩

/-- Settles O43: both steps are the hardware reset, whose registers do not depend on the state. -/
theorem hardwareResetConstructsEveryLane : Obligations.HardwareResetConstructsEveryLane := by
  intro s p hp
  have hagain : ∀ q : PortIn, q.rst = true →
      ∃ u : State, step ((hardwareReset s).present q) = .next u ∧ u.regs = (hardwareReset s).regs :=
    fun q hq => ⟨_, clockEdge_rst hq _, rfl⟩
  exact ⟨hardwareReset s, clockEdge_rst hp s, rfl, rfl, rfl, rfl, hagain⟩

/-- Settles O50: the record is empty at reset. -/
theorem recordLawfulAtReset : Obligations.RecordLawfulAtReset :=
  (recordLawful_iff State.reset).mpr ⟨rfl, rfl, rfl⟩

/-- A tuple that presents no command records nothing, and writes the registers only where it resets them (R143, R170). -/
theorem clockEdge_without_command {p : PortIn} (hv : p.cmdValid = false) (s : State) :
    ∃ t : State, clockEdge p s = .next t ∧ t.inputs = s.inputs ∧ t.faults = s.faults ∧
      t.regs = if p.rst then DigestFile.reset else s.regs := by
  cases hr : p.rst with
  | true => exact ⟨_, clockEdge_rst hr s, rfl, rfl, rfl⟩
  | false => exact ⟨_, clockEdge_idle hr hv s, rfl, rfl, rfl⟩

/-- Over tuples that present no command, a run records nothing and leaves the registers at the reset state where one of the
tuples is a hardware reset, and unchanged where none is. -/
theorem run_without_command {ps rest : List PortIn} (hps : ∀ p ∈ ps, p.cmdValid = false) {s : State}
    (h : s.inputs = ps ++ rest) :
    ∃ t : State, run ps.length s = .next t ∧ t.inputs = rest ∧ t.faults = s.faults ∧
      t.regs = if ps.any PortIn.rst then DigestFile.reset else s.regs := by
  induction ps generalizing s with
  | nil => exact ⟨s, rfl, h, rfl, rfl⟩
  | cons p ps ih =>
    obtain ⟨hp, hps⟩ := List.forall_mem_cons.mp hps
    obtain ⟨u, hu, hin, hf, hregs⟩ := clockEdge_without_command hp { s with inputs := ps ++ rest }
    obtain ⟨t, ht, htin, htf, htregs⟩ := ih hps hin
    refine ⟨t, (run_succ _ ((step_of_inputs h).trans hu)).trans ht, htin, htf.trans hf, ?_⟩
    cases hr : p.rst <;> simp [htregs, hregs, hr]

/-- The host keeps its duty exactly where one of the tuples before its first command is a hardware reset (R14, R174). -/
theorem bootDuty_append_command {before after : List PortIn} {p : PortIn}
    (hbefore : ∀ q ∈ before, q.cmdValid = false) (hp : p.cmdValid = true) :
    bootDuty (before ++ p :: after) = before.any PortIn.rst := by
  induction before with
  | nil => simp [bootDuty, hp]
  | cons q qs ih =>
    obtain ⟨hq, hqs⟩ := List.forall_mem_cons.mp hbefore
    cases hr : q.rst <;> simp [bootDuty, hq, hr, ih hqs]

/-- Settles O45: the duty puts a hardware reset among the tuples before the first command, and after it none of them writes a
register. -/
theorem bootDutyReachesTheResetState : Obligations.BootDutyReachesTheResetState := by
  intro s before after p hin hbefore hp hduty
  rw [hin, bootDuty_append_command hbefore hp] at hduty
  obtain ⟨t, ht, htin, hf, hregs⟩ := run_without_command hbefore hin
  exact ⟨t, ht, by rw [hregs, if_pos hduty], htin, hf⟩

end Sys2Proof.Machine
end

section
/-! PROOFS. Words of every format and illegal case, written out (95_test_vectors.md section 2.7), and the step with no tuple
listed (log 1). -/

namespace Sys2Proof.Machine

/-- Settles O10: each legal word is the word of the command it decodes to (O4), and each reserved word meets the condition of its
case (O8). -/
theorem writtenOutWordsDecode : Obligations.WrittenOutWordsDecode := by
  obtain ⟨hnop, -, -, -, -⟩ := reservedWordsByCase 0x0001#16
  obtain ⟨-, hreset, -, -, -⟩ := reservedWordsByCase 0x8001#16
  obtain ⟨-, -, hfinish, -, -⟩ := reservedWordsByCase 0xc800#16
  obtain ⟨-, -, -, hlane, -⟩ := reservedWordsByCase 0xc700#16
  obtain ⟨-, -, -, -, hdata⟩ := reservedWordsByCase 0xc101#16
  exact ⟨decodeOfEncode .nop, decodeOfEncode (.write 0b001010#6 0x66#8), decodeOfEncode (.write 0b111111#6 0xff#8),
    decodeOfEncode (.reset 0b000010#6), decodeOfEncode (.reset 0b111111#6), decodeOfEncode .finishFnv1_32,
    decodeOfEncode .finishFnv1a_32, decodeOfEncode .finishFnv1_64, decodeOfEncode .finishFnv1a_64,
    decodeOfEncode .finishFnv1_128, decodeOfEncode .finishFnv1a_128, hnop.mpr (by decide), hreset.mpr (by decide),
    hfinish.mpr (by decide), hlane.mpr (by decide), hdata.mpr (by decide)⟩

/-- With no tuple listed the next one is the idle tuple. -/
theorem nextInput_of_nil {s : State} (h : s.inputs = []) : s.nextInput = PortIn.idle := by
  rw [State.nextInput, h, List.headD_nil]

/-- With no tuple listed there is none to take. -/
theorem takeInput_of_nil {s : State} (h : s.inputs = []) : s.takeInput = s := by
  rw [State.takeInput, h, List.tail_nil, ← h]

/-- Settles O36: the clock edge takes the idle tuple, and the list stays empty. -/
theorem stepWithNothingListedIsIdle : Obligations.StepWithNothingListedIsIdle := by
  intro s h
  calc step s
    _ = clockEdge PortIn.idle s := by rw [step, nextInput_of_nil h, takeInput_of_nil h]
    _ = .next (idleStep s) := clockEdge_idle rfl rfl s

end Sys2Proof.Machine
end
